-- ==== Sys2Proof/Word.lean ====
section
/-! DEFINITION. The two word types of the packed-pixel color codec engine. -/

namespace Sys2Proof

/-- A byte of memory, and one colour channel (20_memory R62, 00_scope R9). -/
abbrev Byte := BitVec 8

/-- A register, a command word, a colour word: 32 bits (00_scope R5, `REG_BITS`). -/
abbrev Word := BitVec 32

end Sys2Proof
end

