-- ==== Sys2Proof/Config.lean ====
section
/-! DEFINITION. The three OPEN parameters of 00_scope R5 (Table 00-1) and the fixed `ID` value. -/

namespace Sys2Proof

/-- `PACK1_RULE` (00_scope R5, 40_color_conversions R113, 90_conflicts C2): how an 8-bit channel becomes 1 bit. -/
inductive Pack1Rule where
  /-- The default: every channel above 0 becomes 1. -/
  | nonzero
  /-- The other reading: the channel's most significant bit. -/
  | msb
deriving DecidableEq, Repr

/-- `NIBBLE_ORDER` (00_scope R5, 41_format_codecs R142, 90_conflicts C1): which nibble holds the even element. -/
inductive NibbleOrder where
  /-- The default: the even element is bits [3:0]. -/
  | lowFirst
  /-- The other reading: the even element is bits [7:4]. -/
  | highFirst
deriving DecidableEq, Repr

/-- One choice of the OPEN parameters, fixed for a whole run (93_implementation_defined I8).
`ADDR_BITS` lies in 1..32; the field holds `ADDR_BITS - 1`, so that no other value can be written. -/
structure Config where
  addrBitsLessOne : Fin 32
  pack1 : Pack1Rule
  nibbles : NibbleOrder
deriving DecidableEq, Repr

/-- `ADDR_BITS` (00_scope R5). -/
def Config.addrBits (c : Config) : Nat := c.addrBitsLessOne.val + 1

/-- The number of bytes of `MEM`, `2^ADDR_BITS` (20_memory R60). -/
def Config.memSize (c : Config) : Nat := 2 ^ c.addrBits

/-- The defaults of Table 00-1: `ADDR_BITS = 32`, `PACK1_RULE = NONZERO`, `NIBBLE_ORDER = LOW_FIRST`. -/
def Config.standard : Config := ⟨31, .nonzero, .lowFirst⟩

/-- `ID_VALUE` (00_scope R5, 10_state R23). -/
def idValue : Word := 0x52455549#32

end Sys2Proof
end

