-- ==== Sys2Proof/Machine/Transaction.lean ====
section
/-! DEFINITION. The host's side of the engine: the registers of 10_state Table 10-1 by name, the four host actions of
30_encoding R80, and what a host read returns. -/

namespace Sys2Proof.Machine

/-- The 18 registers of 10_state Table 10-1 (R22). -/
inductive Reg where
  | id | ctrl | cmd | status | finfo
  | bufBase | bufLen | bufFmt
  | palBase | palLen | palFmt
  | viewW | viewH
  | arg0 | arg1 | colorIn | colorOut | result
deriving DecidableEq, Repr

/-- One host action (30_encoding R80). A register offset is a byte offset in the 256-byte register space
(20_memory R60), so it has 8 bits; narrower transactions cannot be written down (93_implementation_defined I5). -/
inductive HostAction where
  /-- `RegWrite(off, data)`. -/
  | regWrite (off : BitVec 8) (data : Word)
  /-- `RegRead(off) -> data`. -/
  | regRead (off : BitVec 8)
  /-- `HostMemWrite(addr, byte)`, directly to `MEM` (20_memory R69). -/
  | memWrite (addr : Word) (data : Byte)
  /-- `HostMemRead(addr) -> byte` (20_memory R69). -/
  | memRead (addr : Word)
deriving DecidableEq, Repr

/-- A value one host read has returned (70_reset_and_hazards R278). -/
inductive Observation where
  /-- What a `RegRead` returned. -/
  | reg (data : Word)
  /-- What a `HostMemRead` returned. -/
  | mem (data : Byte)
deriving DecidableEq, Repr

/-- A register offset the interface has: a multiple of 4 (30_encoding R80: "a byte offset `0x00 .. 0xFC` that is a
multiple of 4"; the 8 bits of the offset give the range). -/
def offsetAligned (off : BitVec 8) : Bool := off.toNat % 4 == 0

end Sys2Proof.Machine
end

