-- ==== Sys2Proof/Machine/State.lean ====
section
/-! DEFINITION. The whole state of the engine (10_state R20), the host agent that drives it, and reset. -/

namespace Sys2Proof.Machine

/-- Why the model stops with a fault. A fault of the ENGINE is no such stop: it is a next state (60_exceptions R246). -/
inductive Fault where
  /-- Raised by a host memory access at an address `2^ADDR_BITS` or above, where `MEM` has no byte (20_memory R60).
  Safe: the spec gives such an access no effect (log 5). -/
  | noSuchAddress (addr : Word)
deriving DecidableEq, Repr

/-- Why the model refuses. -/
inductive Refusal where
  /-- Raised by an arm of `exec` whose command has no meaning yet. Safe. No arm does. -/
  | notModelled (mnemonic : String)
  /-- Raised by a register transaction at an offset that is no multiple of 4 (30_encoding R80: "a model refuses
  them"). Safe (log 6). -/
  | unalignedTransaction (off : BitVec 8)
deriving DecidableEq, Repr

/-- `MEM` (10_state R42) as address and byte pairs, addresses strictly rising, no entry equal to what an unlisted
address reads as (`memFill` in Ops.lean, log 2). -/
abbrev Memory := List Host.Cell

/-- The engine's registers and `MEM` (10_state R20), with the parameters (log 1) and the host agent (log 3). -/
structure State where
  /-- The OPEN parameters (00_scope R5); the MODEL's own field: no step changes it. -/
  cfg : Config
  /-- `MEM` (10_state R42). -/
  mem : Memory
  /-- `STATUS.FAULT` (10_state R39, R41). -/
  fault : Bool
  /-- `STATUS.NOMATCH` (10_state R39, R41). -/
  noMatch : Bool
  /-- `STATUS.CAUSE` (10_state R39). -/
  cause : BitVec 4
  /-- `FINFO` (10_state R40). -/
  finfo : Word
  /-- `BUF_BASE` (10_state R26); bits from `ADDR_BITS` upward are hardwired 0, by the register write. -/
  bufBase : Word
  /-- `BUF_LEN` (10_state R27): the 29 implemented bits. -/
  bufLen : BitVec 29
  /-- `BUF_FMT` (10_state R28): the 8 implemented bits. -/
  bufFmt : BitVec 8
  /-- `PAL_BASE` (10_state R29), as `BUF_BASE`. -/
  palBase : Word
  /-- `PAL_LEN` (10_state R30). -/
  palLen : BitVec 29
  /-- `PAL_FMT` (10_state R31). -/
  palFmt : BitVec 8
  /-- `VIEW_W` (10_state R32): the 16 implemented bits. -/
  viewW : BitVec 16
  /-- `VIEW_H` (10_state R33). -/
  viewH : BitVec 16
  /-- `ARG0` (10_state R34). -/
  arg0 : Word
  /-- `ARG1` (10_state R35). -/
  arg1 : Word
  /-- `COLOR_IN` (10_state R36). -/
  colorIn : Word
  /-- `COLOR_OUT` (10_state R37). -/
  colorOut : Word
  /-- `RESULT` (10_state R38). -/
  result : Word
  /-- The host's actions still to come (10_state R21, 30_encoding R80); the host agent's, not the engine's. -/
  program : List HostAction
  /-- What the host's reads have returned, oldest first (70_reset_and_hazards R278); the host agent's. -/
  observed : List Observation
deriving DecidableEq, Repr

/-- The state after a hardware reset with parameters `c` and memory content `m` (10_state R45, 70_reset_and_hazards
R270 to R272): every register at its value of Table 10-1, `MEM` whatever it is, the host yet to act. -/
def State.powerUp (c : Config) (m : Memory) : State where
  cfg := c
  mem := m
  fault := false
  noMatch := false
  cause := 0
  finfo := 0
  bufBase := 0
  bufLen := 0
  bufFmt := 0
  palBase := 0
  palLen := 0
  palFmt := 0
  viewW := 0
  viewH := 0
  arg0 := 0
  arg1 := 0
  colorIn := 0
  colorOut := 0
  result := 0
  program := []
  observed := []

/-- The machine after reset: the default parameters, memory with nothing listed (log 2), no host action (log 3). -/
def State.reset : State := State.powerUp Config.standard []

end Sys2Proof.Machine
end

