-- ==== Sys2Proof/Machine/Color.lean ====
section
/-! DEFINITION. Colour values (00_scope R9), colour words (30_encoding R93, R94) and channel scaling
(40_color_conversions R110 to R114). -/

namespace Sys2Proof.Machine

/-- `(hi << n) | lo`, `lo` of `n` bits, in `w` bits (00_scope R7). -/
def join {w m n : Nat} (hi : BitVec m) (lo : BitVec n) : BitVec w := (hi.setWidth w <<< n) ||| lo.setWidth w

/-- The five colour types (00_scope R9). -/
inductive ColorType where
  | bw | gs | gsa | rgb | rgba
deriving DecidableEq, Repr

/-- A colour value (00_scope R9): five typed records; every channel but `bit` has 8 bits. Two are equal exactly when
they have the same type and every channel is equal. -/
inductive Color where
  | bw (bit : Bool)
  | gs (v : Byte)
  | gsa (v a : Byte)
  | rgb (r g b : Byte)
  | rgba (r g b a : Byte)
deriving DecidableEq, Repr

/-- The type of a colour value. -/
def Color.type : Color → ColorType
  | .bw _ => .bw
  | .gs _ => .gs
  | .gsa _ _ => .gsa
  | .rgb _ _ _ => .rgb
  | .rgba _ _ _ _ => .rgba

/-- `default(T)` (00_scope R9): black, fully opaque. -/
def defaultColor : ColorType → Color
  | .bw => .bw false
  | .gs => .gs 0
  | .gsa => .gsa 0 255
  | .rgb => .rgb 0 0 0
  | .rgba => .rgba 0 0 0 255

/-- The colour word with the given lanes 3, 2, 1, 0 (30_encoding R93). -/
def colorWord (l3 l2 l1 l0 : Byte) : Word :=
  join (join (join l3 l2 : BitVec 16) l1 : BitVec 24) l0

/-- Lane `k` of a colour word: bits [8k+7:8k] (30_encoding R93). -/
def lane (k : Nat) (w : Word) : Byte := w.extractLsb' (8 * k) 8

/-- `to_word` (30_encoding R93, Table 30-4); always canonical. -/
def Color.toWord : Color → Word
  | .bw bit => colorWord 0 0 0 (if bit then 1 else 0)
  | .gs v => colorWord 0 0 0 v
  | .gsa v a => colorWord a 0 0 v
  | .rgb r g b => colorWord 0 b g r
  | .rgba r g b a => colorWord a b g r

/-- `from_word` (30_encoding R93): the bits outside the type's lanes are ignored (R94). -/
def Color.fromWord (t : ColorType) (w : Word) : Color :=
  match t with
  | .bw => .bw (w.getLsbD 0)
  | .gs => .gs (lane 0 w)
  | .gsa => .gsa (lane 0 w) (lane 3 w)
  | .rgb => .rgb (lane 0 w) (lane 1 w) (lane 2 w)
  | .rgba => .rgba (lane 0 w) (lane 1 w) (lane 2 w) (lane 3 w)

/-- `expand(n, v)` (40_color_conversions R111, R112): `v * (255 div (2^n - 1))`, and for 1 bit the threshold. -/
def expand {n : Nat} (v : BitVec n) : Byte :=
  if n = 1 then (if v = 0 then 0 else 255) else BitVec.ofNat 8 (v.toNat * (255 / (2 ^ n - 1)))

/-- `compact(n, v8)` (40_color_conversions R113): the top `n` bits; for 1 bit by `PACK1_RULE`. -/
def compact (p : Pack1Rule) (n : Nat) (v : Byte) : BitVec n :=
  if n = 1 then
    match p with
    | .nonzero => if v = 0 then 0#n else 1#n
    | .msb => (v >>> 7).setWidth n
  else (v >>> (8 - n)).setWidth n

/-- The gray reduction (40_color_conversions R120, R124): the truncated average, formed without wrap. -/
def average (r g b : Byte) : Byte := BitVec.ofNat 8 ((r.toNat + g.toNat + b.toNat) / 3)

end Sys2Proof.Machine
end

