-- ==== Sys2Proof/Machine/Format.lean ====
section
/-! DEFINITION. Pixel formats: codes and constants (30_encoding R90, Table 30-3), element count (41_format_codecs R140)
and byte length (43_buffer R210). -/

namespace Sys2Proof.Machine

/-- The 17 fixed-depth formats, codes `0x00` to `0x10` (30_encoding Table 30-3). -/
inductive FixedFormat where
  | bw1 | gs1 | gs2 | gs4 | gs8
  | gsa11 | gsa22 | gsa31 | gsa44 | gsa71
  | rgb332 | rgb444 | rgb565 | rgb888
  | rgba4444 | rgba5551 | rgba8888
deriving DecidableEq, Repr

/-- The four indexed formats, codes `0x20` to `0x23` (30_encoding Table 30-3, 42_indexed_codec R190). -/
inductive IndexedFormat where
  | idx1 | idx2 | idx4 | idx8
deriving DecidableEq, Repr

/-- A valid format (30_encoding R90). -/
inductive Format where
  | fixed (f : FixedFormat)
  | indexed (x : IndexedFormat)
deriving DecidableEq, Repr

/-- `bpp(f)` of a fixed-depth format (30_encoding Table 30-3). -/
def FixedFormat.bpp : FixedFormat → Nat
  | .bw1 => 1
  | .gs1 => 1
  | .gs2 => 2
  | .gs4 => 4
  | .gs8 => 8
  | .gsa11 => 2
  | .gsa22 => 4
  | .gsa31 => 4
  | .gsa44 => 8
  | .gsa71 => 8
  | .rgb332 => 8
  | .rgb444 => 12
  | .rgb565 => 16
  | .rgb888 => 24
  | .rgba4444 => 16
  | .rgba5551 => 16
  | .rgba8888 => 32

/-- `ctype(f)` of a fixed-depth format (30_encoding Table 30-3). -/
def FixedFormat.ctype : FixedFormat → ColorType
  | .bw1 => .bw
  | .gs1 => .gs
  | .gs2 => .gs
  | .gs4 => .gs
  | .gs8 => .gs
  | .gsa11 => .gsa
  | .gsa22 => .gsa
  | .gsa31 => .gsa
  | .gsa44 => .gsa
  | .gsa71 => .gsa
  | .rgb332 => .rgb
  | .rgb444 => .rgb
  | .rgb565 => .rgb
  | .rgb888 => .rgb
  | .rgba4444 => .rgba
  | .rgba5551 => .rgba
  | .rgba8888 => .rgba

/-- The number of index bits `n`, which is `bpp` of an indexed format (42_indexed_codec R190). -/
def IndexedFormat.bits : IndexedFormat → Nat
  | .idx1 => 1
  | .idx2 => 2
  | .idx4 => 4
  | .idx8 => 8

/-- `bpp(f)` (30_encoding R90). -/
def Format.bpp : Format → Nat
  | .fixed f => f.bpp
  | .indexed x => x.bits

/-- The format a code names (30_encoding Table 30-3); none for a reserved code (R91). `valid_fmt` is that it names
one. -/
def Format.ofCode (code : BitVec 8) : Option Format :=
  match code with
  | 0x00#8 => some (.fixed .bw1)
  | 0x01#8 => some (.fixed .gs1)
  | 0x02#8 => some (.fixed .gs2)
  | 0x03#8 => some (.fixed .gs4)
  | 0x04#8 => some (.fixed .gs8)
  | 0x05#8 => some (.fixed .gsa11)
  | 0x06#8 => some (.fixed .gsa22)
  | 0x07#8 => some (.fixed .gsa31)
  | 0x08#8 => some (.fixed .gsa44)
  | 0x09#8 => some (.fixed .gsa71)
  | 0x0A#8 => some (.fixed .rgb332)
  | 0x0B#8 => some (.fixed .rgb444)
  | 0x0C#8 => some (.fixed .rgb565)
  | 0x0D#8 => some (.fixed .rgb888)
  | 0x0E#8 => some (.fixed .rgba4444)
  | 0x0F#8 => some (.fixed .rgba5551)
  | 0x10#8 => some (.fixed .rgba8888)
  | 0x20#8 => some (.indexed .idx1)
  | 0x21#8 => some (.indexed .idx2)
  | 0x22#8 => some (.indexed .idx4)
  | 0x23#8 => some (.indexed .idx8)
  | _ => none

/-- `count(len, f)` for a format of `bpp` bits (41_format_codecs R140). -/
def count (len bpp : Nat) : Nat := len * 8 / bpp

/-- `cap_bytes(n, f)` for a format of `bpp` bits (43_buffer R210). -/
def capBytes (n bpp : Nat) : Nat := (n * bpp + 7) / 8

end Sys2Proof.Machine
end

