-- ==== Sys2Proof/Machine/Ops.lean ====
section
/-! DEFINITION. The named operations over memory and registers, taking a fault (60_exceptions R246), and the soft reset,
the only way out of one (60_exceptions R257). -/

namespace Sys2Proof.Machine

/-! ## Memory (20_memory R60 to R62, R67) -/

/-- What an address that `Memory` does not list reads as (log 2, DESIGN CHOICE). -/
def memFill : Byte := 0#8

/-- `MemRead(a, 1)` (00_scope R8): the byte last written at `a`. -/
def Memory.read (m : Memory) (a : Nat) : Byte :=
  match m with
  | [] => memFill
  | (b, v) :: rest => if b = a then v else Memory.read rest a

/-- The memory without its entry for `a`. -/
def Memory.without (m : Memory) (a : Nat) : Memory := m.filter fun c => c.1 != a

/-- The memory with an entry for `a` put at its place in the order. -/
def Memory.place (m : Memory) (a : Nat) (v : Byte) : Memory :=
  match m with
  | [] => [(a, v)]
  | (b, u) :: rest => if a < b then (a, v) :: (b, u) :: rest else (b, u) :: Memory.place rest a v

/-- `MemWrite(a, 1, v)` (00_scope R8). Writing what an unlisted address reads as removes the entry. -/
def Memory.write (m : Memory) (a : Nat) (v : Byte) : Memory :=
  if v = memFill then Memory.without m a else Memory.place (Memory.without m a) a v

/-- The canonical form: addresses strictly rising, no entry equal to what an unlisted address reads as. -/
def Memory.wf (m : Memory) : Bool :=
  match m with
  | [] => true
  | (a, v) :: rest => v != memFill && (rest.all fun c => decide (a < c.1)) && Memory.wf rest

/-- Every listed address lies below `n`. -/
def Memory.below (m : Memory) (n : Nat) : Bool := m.all fun c => decide (c.1 < n)

/-! ## Faults of the engine (60_exceptions R241 to R257) -/

/-- The six faults of Table 60-1 (60_exceptions R241), each with the value it records in `FINFO`. They are the spec's
`raise F(info)`, not stops of the model. -/
inductive EngineFault where
  /-- The command word is not one of the 19 (R242); records the word. -/
  | illegalCmd (w : Word)
  /-- A format register holds a code the command cannot use (R243); records the code. -/
  | badFormat (code : BitVec 8)
  /-- The buffer window runs past the top of memory (R245, R250); records 0. -/
  | badBufferWindow
  /-- The palette window runs past the top of memory (R245, R251); records 1. -/
  | badPaletteWindow
  /-- An operand or a result does not fit (R244); records the operand. -/
  | argRange (operand : Word)
  /-- The element index is not below the element count (R247); records the index. -/
  | indexOob (i : Nat)
  /-- The palette slot is not below the palette's element count (R252); records the slot. -/
  | palOob (k : Nat)
deriving DecidableEq, Repr

/-- The cause code of Table 60-1 (60_exceptions R241). -/
def EngineFault.code : EngineFault → BitVec 4
  | .illegalCmd _ => 1
  | .badFormat _ => 2
  | .badBufferWindow => 3
  | .badPaletteWindow => 3
  | .argRange _ => 4
  | .indexOob _ => 5
  | .palOob _ => 6

/-- What `FINFO` records (60_exceptions Table 60-1). An index and a slot are below `2^32`. -/
def EngineFault.info : EngineFault → Word
  | .illegalCmd w => w
  | .badFormat code => code.setWidth 32
  | .badBufferWindow => 0
  | .badPaletteWindow => 1
  | .argRange operand => operand
  | .indexOob i => BitVec.ofNat 32 i
  | .palOob k => BitVec.ofNat 32 k

/-- Fault entry (60_exceptions R246): FAULT, CAUSE and FINFO are written and nothing else. -/
def State.raise (s : State) (f : EngineFault) : State :=
  { s with fault := true, cause := f.code, finfo := f.info }

/-- How a command ends (60_exceptions R240): with its results, or abandoned with the fault record alone. Both are next
states: the host goes on (70_reset_and_hazards R278). -/
def State.finish (s : State) (r : Except EngineFault State) : Host.Outcome State Fault Refusal :=
  match r with
  | .ok t => .next t
  | .error f => .next (s.raise f)

/-- The soft reset (10_state R24, 70_reset_and_hazards R271, R272): every register at its reset value, `MEM` unchanged.
The parameters and the host agent are no registers. -/
def State.softReset (s : State) : State :=
  { s with
    fault := false, noMatch := false, cause := 0, finfo := 0
    bufBase := 0, bufLen := 0, bufFmt := 0
    palBase := 0, palLen := 0, palFmt := 0
    viewW := 0, viewH := 0
    arg0 := 0, arg1 := 0, colorIn := 0, colorOut := 0, result := 0 }

/-! ## Results of a command (10_state R37, R38, R41) -/

/-- A command that produces a colour word: `COLOR_OUT` written, `NOMATCH` cleared (10_state R37, R41). -/
def State.putColorOut (s : State) (w : Word) : State := { s with colorOut := w, noMatch := false }

/-- A command that produces a number: `RESULT` written, `NOMATCH` rewritten (10_state R38, R41). -/
def State.putResult (s : State) (w : Word) (noMatch : Bool) : State := { s with result := w, noMatch := noMatch }

/-- A command that writes elements: `MEM` written, `NOMATCH` rewritten (10_state R41). -/
def State.putMemory (s : State) (m : Memory) (noMatch : Bool) : State := { s with mem := m, noMatch := noMatch }

end Sys2Proof.Machine
end

