-- ==== Sys2Proof/Machine/Codec.lean ====
section
/-! DEFINITION. Sub-byte fields (41_format_codecs R141 to R143), decode and encode of the 17 fixed-depth formats
(R145 to R178), and the palette scan (42_indexed_codec R192).

`base` is the base address of the window and `i` the element index; `rb k` is the spec's `RB(k)` and
`m.write (base + k) v` its `WB(k, v)`. A field `y[hi:lo]` is `y.extractLsb' lo (hi - lo + 1)`, and `(x << k) | y` with
`y` of `k` bits is `join x y`. -/

namespace Sys2Proof.Machine

/-- `pos(i, w)` (41_format_codecs R142): the bit offset of the field of element `i` inside its byte, for `w` in
{1, 2, 4, 8}. -/
def pos (c : Config) (i w : Nat) : Nat :=
  match w with
  | 1 => i % 8
  | 2 => i % 4 * 2
  | 4 =>
    match c.nibbles with
    | .lowFirst => i % 2 * 4
    | .highFirst => (1 - i % 2) * 4
  | _ => 0

/-- `field_get(base, i, w)` (41_format_codecs R141), for `w` in {1, 2, 4, 8}. -/
def fieldGet (c : Config) (m : Memory) (base i w : Nat) : BitVec w :=
  (m.read (base + i / (8 / w)) >>> pos c i w).setWidth w

/-- The byte with the `w`-bit field at bit `sh` replaced by `f`: mask-and-or (41_format_codecs R143). -/
def replaceField (old : Byte) (sh w : Nat) (f : BitVec w) : Byte :=
  (old &&& ~~~(BitVec.ofNat 8 (2 ^ w - 1) <<< sh)) ||| (f.setWidth 8 <<< sh)

/-- `field_set(base, i, w, f)` (41_format_codecs R143), for `w` in {1, 2, 4, 8}. -/
def fieldSet (c : Config) (m : Memory) (base i w : Nat) (f : BitVec w) : Memory :=
  let k := i / (8 / w)
  if w = 8 then m.write (base + k) (f.setWidth 8)
  else m.write (base + k) (replaceField (m.read (base + k)) (pos c i w) w f)

/-- `decode(f, base, i)` (41_format_codecs R145 to R177). -/
def decodeColor (c : Config) (f : FixedFormat) (m : Memory) (base i : Nat) : Color :=
  let rb : Nat → Byte := fun k => m.read (base + k)
  match f with
  | .bw1 => .bw ((fieldGet c m base i 1).getLsbD 0)
  | .gs1 => .gs (expand (fieldGet c m base i 1))
  | .gs2 => .gs (expand (fieldGet c m base i 2))
  | .gs4 => .gs (expand (fieldGet c m base i 4))
  | .gs8 => .gs (rb i)
  | .gsa11 =>
    let e := fieldGet c m base i 2
    .gsa (expand (e.extractLsb' 1 1)) (expand (e.extractLsb' 0 1))
  | .gsa22 =>
    let e := fieldGet c m base i 4
    .gsa (expand (e.extractLsb' 2 2)) (expand (e.extractLsb' 0 2))
  | .gsa31 =>
    let e := fieldGet c m base i 4
    .gsa (expand (e.extractLsb' 1 3)) (expand (e.extractLsb' 0 1))
  | .gsa44 =>
    let y := rb i
    .gsa (expand (y.extractLsb' 4 4)) (expand (y.extractLsb' 0 4))
  | .gsa71 =>
    let y := rb i
    .gsa (expand (y.extractLsb' 1 7)) (expand (y.extractLsb' 0 1))
  | .rgb332 =>
    let y := rb i
    .rgb (expand (y.extractLsb' 5 3)) (expand (y.extractLsb' 2 3)) (expand (y.extractLsb' 0 2))
  | .rgb444 =>
    let o := 3 * (i / 2)
    if i % 2 = 0 then
      let y0 := rb o
      let y1 := rb (o + 1)
      .rgb (expand (y0.extractLsb' 4 4)) (expand (y0.extractLsb' 0 4)) (expand (y1.extractLsb' 4 4))
    else
      let y1 := rb (o + 1)
      let y2 := rb (o + 2)
      .rgb (expand (y1.extractLsb' 0 4)) (expand (y2.extractLsb' 4 4)) (expand (y2.extractLsb' 0 4))
  | .rgb565 =>
    let y0 := rb (2 * i)
    let y1 := rb (2 * i + 1)
    let r5 : BitVec 5 := y0.extractLsb' 3 5
    let g6 : BitVec 6 := join (y0.extractLsb' 0 3) (y1.extractLsb' 5 3)
    let b5 : BitVec 5 := y1.extractLsb' 0 5
    .rgb (expand r5) (expand g6) (expand b5)
  | .rgb888 => .rgb (rb (3 * i)) (rb (3 * i + 1)) (rb (3 * i + 2))
  | .rgba4444 =>
    let y0 := rb (2 * i)
    let y1 := rb (2 * i + 1)
    .rgba (expand (y0.extractLsb' 4 4)) (expand (y0.extractLsb' 0 4))
      (expand (y1.extractLsb' 4 4)) (expand (y1.extractLsb' 0 4))
  | .rgba5551 =>
    let y0 := rb (2 * i)
    let y1 := rb (2 * i + 1)
    let r5 : BitVec 5 := y0.extractLsb' 3 5
    let g5 : BitVec 5 := join (y0.extractLsb' 0 3) (y1.extractLsb' 6 2)
    let b5 : BitVec 5 := y1.extractLsb' 1 5
    let a1 : BitVec 1 := y1.extractLsb' 0 1
    .rgba (expand r5) (expand g5) (expand b5) (expand a1)
  | .rgba8888 => .rgba (rb (4 * i)) (rb (4 * i + 1)) (rb (4 * i + 2)) (rb (4 * i + 3))

/-- `encode(f, base, i, c)` (41_format_codecs R146 to R178), for a colour of type `ctype(f)`. The last line is never
reached: a command takes its colour in that type (log 11). -/
def encodeColor (c : Config) (f : FixedFormat) (m : Memory) (base i : Nat) (col : Color) : Memory :=
  let cp : (n : Nat) → Byte → BitVec n := fun n v => compact c.pack1 n v
  match f, col with
  | .bw1, .bw bit => fieldSet c m base i 1 (BitVec.ofBool bit)
  | .gs1, .gs v => fieldSet c m base i 1 (cp 1 v)
  | .gs2, .gs v => fieldSet c m base i 2 (cp 2 v)
  | .gs4, .gs v => fieldSet c m base i 4 (cp 4 v)
  | .gs8, .gs v => m.write (base + i) v
  | .gsa11, .gsa v a => fieldSet c m base i 2 (join (cp 1 v) (cp 1 a))
  | .gsa22, .gsa v a => fieldSet c m base i 4 (join (cp 2 v) (cp 2 a))
  | .gsa31, .gsa v a => fieldSet c m base i 4 (join (cp 3 v) (cp 1 a))
  | .gsa44, .gsa v a => m.write (base + i) (join (cp 4 v) (cp 4 a))
  | .gsa71, .gsa v a => m.write (base + i) (join (cp 7 v) (cp 1 a))
  | .rgb332, .rgb r g b => m.write (base + i) (join (join (cp 3 r) (cp 3 g) : BitVec 6) (cp 2 b))
  | .rgb444, .rgb r g b =>
    let o := 3 * (i / 2)
    let r4 := cp 4 r
    let g4 := cp 4 g
    let b4 := cp 4 b
    if i % 2 = 0 then
      let m := m.write (base + o) (join r4 g4)
      let old := m.read (base + (o + 1))
      m.write (base + (o + 1)) (join b4 (old.extractLsb' 0 4))
    else
      let old := m.read (base + (o + 1))
      let m := m.write (base + (o + 1)) (join (old.extractLsb' 4 4) r4)
      m.write (base + (o + 2)) (join g4 b4)
  | .rgb565, .rgb r g b =>
    let r5 := cp 5 r
    let g6 := cp 6 g
    let b5 := cp 5 b
    let m := m.write (base + 2 * i) (join r5 (g6.extractLsb' 3 3))
    m.write (base + (2 * i + 1)) (join (g6.extractLsb' 0 3) b5)
  | .rgb888, .rgb r g b =>
    let m := m.write (base + 3 * i) r
    let m := m.write (base + (3 * i + 1)) g
    m.write (base + (3 * i + 2)) b
  | .rgba4444, .rgba r g b a =>
    let m := m.write (base + 2 * i) (join (cp 4 r) (cp 4 g))
    m.write (base + (2 * i + 1)) (join (cp 4 b) (cp 4 a))
  | .rgba5551, .rgba r g b a =>
    let r5 := cp 5 r
    let g5 := cp 5 g
    let b5 := cp 5 b
    let a1 := cp 1 a
    let m := m.write (base + 2 * i) (join r5 (g5.extractLsb' 2 3))
    m.write (base + (2 * i + 1)) (join (join (g5.extractLsb' 0 2) b5 : BitVec 7) a1)
  | .rgba8888, .rgba r g b a =>
    let m := m.write (base + 4 * i) r
    let m := m.write (base + (4 * i + 1)) g
    let m := m.write (base + (4 * i + 2)) b
    m.write (base + (4 * i + 3)) a
  | _, _ => m

/-- The first of the `n` palette slots `k, k+1, …` whose decoded colour equals `col` (42_indexed_codec R192). -/
def palScan (c : Config) (pf : FixedFormat) (m : Memory) (base : Nat) (col : Color) (k n : Nat) : Option Nat :=
  match n with
  | 0 => none
  | n + 1 => if decodeColor c pf m base k = col then some k else palScan c pf m base col (k + 1) n

/-- `pal_find(n, c)` (42_indexed_codec R192) for an indexed format of `bits` index bits and a palette of `pcount`
entries: slots 0 to `min(2^bits, pcount) - 1`, the lowest match wins (90_conflicts C3). -/
def palFind (c : Config) (pf : FixedFormat) (m : Memory) (base pcount bits : Nat) (col : Color) : Option Nat :=
  palScan c pf m base col 0 (min (2 ^ bits) pcount)

end Sys2Proof.Machine
end

