-- ==== Sys2Proof/Machine/Flags.lean ====
section
/-! DEFINITION. The flags (10_state R41) and the status word (10_state R39, Table 10-2). -/

namespace Sys2Proof.Machine

/-- `STATUS` as a host read sees it: CAUSE in [7:4], [3:2] hardwired 0, NOMATCH in [1], FAULT in [0], [31:8]
hardwired 0 (10_state Table 10-2). -/
def State.statusWord (s : State) : Word :=
  join (join (join s.cause 0#2 : BitVec 6) (BitVec.ofBool s.noMatch) : BitVec 7) (BitVec.ofBool s.fault)

/-- `NOMATCH` after a command that scanned the palette: 1 when a scan found no equal colour (10_state R41). -/
def noMatchOf (matched : Bool) : Bool := !matched

end Sys2Proof.Machine
end

