-- ==== Sys2Proof/Machine/Registers.lean ====
section
/-! DEFINITION. The register file as the host sees it (10_state R22, Table 10-1; 30_encoding R81). -/

namespace Sys2Proof.Machine

/-- The byte offset of a register (10_state Table 10-1). -/
def Reg.offset : Reg → BitVec 8
  | .id => 0x00#8
  | .ctrl => 0x04#8
  | .cmd => 0x08#8
  | .status => 0x0C#8
  | .finfo => 0x10#8
  | .bufBase => 0x14#8
  | .bufLen => 0x18#8
  | .bufFmt => 0x1C#8
  | .palBase => 0x20#8
  | .palLen => 0x24#8
  | .palFmt => 0x28#8
  | .viewW => 0x2C#8
  | .viewH => 0x30#8
  | .arg0 => 0x34#8
  | .arg1 => 0x38#8
  | .colorIn => 0x3C#8
  | .colorOut => 0x40#8
  | .result => 0x44#8

/-- The registers in the order of their offsets. -/
def Reg.all : List Reg :=
  [.id, .ctrl, .cmd, .status, .finfo, .bufBase, .bufLen, .bufFmt, .palBase, .palLen, .palFmt,
   .viewW, .viewH, .arg0, .arg1, .colorIn, .colorOut, .result]

/-- The register at an offset; none at a reserved one (30_encoding R81). -/
def Reg.ofOffset (off : BitVec 8) : Option Reg := Reg.all.find? fun r => r.offset == off

/-- What a host read of a register returns (10_state R22 to R40): `ID` is a constant, the write-only registers read 0,
unimplemented bits read 0. -/
def State.readReg (s : State) (r : Reg) : Word :=
  match r with
  | .id => idValue
  | .ctrl => 0
  | .cmd => 0
  | .status => s.statusWord
  | .finfo => s.finfo
  | .bufBase => s.bufBase
  | .bufLen => s.bufLen.setWidth 32
  | .bufFmt => s.bufFmt.setWidth 32
  | .palBase => s.palBase
  | .palLen => s.palLen.setWidth 32
  | .palFmt => s.palFmt.setWidth 32
  | .viewW => s.viewW.setWidth 32
  | .viewH => s.viewH.setWidth 32
  | .arg0 => s.arg0
  | .arg1 => s.arg1
  | .colorIn => s.colorIn
  | .colorOut => s.colorOut
  | .result => s.result

/-- The bits of a written base address that the register keeps: [ADDR_BITS-1:0] (10_state R26). -/
def keepAddrBits (c : Config) (w : Word) : Word := BitVec.ofNat 32 (w.toNat % c.memSize)

/-- What a host write stores in a register when the engine is not faulted (10_state R22, 30_encoding R81): the
implemented bits of an `RW` register; a read-only register ignores the write. The two triggers `CTRL` and `CMD` store
nothing; what their write does is `ctrlWrite` and `runCommand` of HostInterface.lean. -/
def State.writeReg (s : State) (r : Reg) (w : Word) : State :=
  match r with
  | .id => s
  | .ctrl => s
  | .cmd => s
  | .status => s
  | .finfo => s
  | .bufBase => { s with bufBase := keepAddrBits s.cfg w }
  | .bufLen => { s with bufLen := w.setWidth 29 }
  | .bufFmt => { s with bufFmt := w.setWidth 8 }
  | .palBase => { s with palBase := keepAddrBits s.cfg w }
  | .palLen => { s with palLen := w.setWidth 29 }
  | .palFmt => { s with palFmt := w.setWidth 8 }
  | .viewW => { s with viewW := w.setWidth 16 }
  | .viewH => { s with viewH := w.setWidth 16 }
  | .arg0 => { s with arg0 := w }
  | .arg1 => { s with arg1 := w }
  | .colorIn => { s with colorIn := w }
  | .colorOut => s
  | .result => s

end Sys2Proof.Machine
end

