-- ==== Sys2Proof/Machine/Operands.lean ====
section
/-! DEFINITION. Operand forms: the configuration checks of 60_exceptions R248 to R251, coordinates (R244), the checked
element access of 41_format_codecs R180, R181 and 42_indexed_codec R191 to R194, and the view index (44_pixel_view R220). -/

namespace Sys2Proof.Machine

/-- `check_fmt_buf()` (60_exceptions R248), answering the format. -/
def checkFmtBuf (s : State) : Except EngineFault Format :=
  match Format.ofCode s.bufFmt with
  | some f => .ok f
  | none => .error (.badFormat s.bufFmt)

/-- `check_fmt_pal()` (60_exceptions R249), answering the palette's format: one of the 17 fixed-depth formats. -/
def checkFmtPal (s : State) : Except EngineFault FixedFormat :=
  match Format.ofCode s.palFmt with
  | some (.fixed f) => .ok f
  | some (.indexed _) => .error (.badFormat s.palFmt)
  | none => .error (.badFormat s.palFmt)

/-- `check_buf()` (60_exceptions R250): the buffer window ends at or below the top of memory; the sum is exact. -/
def checkBuf (s : State) : Except EngineFault Unit :=
  if s.bufBase.toNat + s.bufLen.toNat > s.cfg.memSize then .error .badBufferWindow else .ok ()

/-- `check_pal()` (60_exceptions R251). -/
def checkPal (s : State) : Except EngineFault Unit :=
  if s.palBase.toNat + s.palLen.toNat > s.cfg.memSize then .error .badPaletteWindow else .ok ()

/-- The codec of the buffer, once checked: a fixed-depth format, or an indexed format with its palette's format. -/
inductive BufferCodec where
  | fixed (f : FixedFormat)
  | indexed (x : IndexedFormat) (pf : FixedFormat)
deriving DecidableEq, Repr

/-- The colour type `T` of the buffer: of its format, or of the palette's entries (30_encoding R90). -/
def BufferCodec.ctype : BufferCodec → ColorType
  | .fixed f => f.ctype
  | .indexed _ pf => pf.ctype

/-- `bpp` of the buffer's format. -/
def BufferCodec.bpp : BufferCodec → Nat
  | .fixed f => f.bpp
  | .indexed x _ => x.bits

/-- The checks that open `GET`, `SET`, `INIT`, `PGET` and `PSET` (41_format_codecs R183, R184), in their order: buffer
format, palette format if indexed, buffer window, palette window if indexed. -/
def openBuffer (s : State) : Except EngineFault BufferCodec := do
  match ← checkFmtBuf s with
  | .fixed f =>
    checkBuf s
    return .fixed f
  | .indexed x =>
    let pf ← checkFmtPal s
    checkBuf s
    checkPal s
    return .indexed x pf

/-- The element count of the buffer (41_format_codecs R140). -/
def bufferCount (s : State) (b : BufferCodec) : Nat := count s.bufLen.toNat b.bpp

/-- The element count of the palette (42_indexed_codec R198). -/
def paletteCount (s : State) (pf : FixedFormat) : Nat := count s.palLen.toNat pf.bpp

/-- `pal_get(k)` (42_indexed_codec R191). -/
def palGet (s : State) (pf : FixedFormat) (k : Nat) : Except EngineFault Color :=
  if paletteCount s pf ≤ k then .error (.palOob k) else .ok (decodeColor s.cfg pf s.mem s.palBase.toNat k)

/-- `get_color(i)` (41_format_codecs R180), with `idx_decode` (42_indexed_codec R193) for an indexed format. -/
def getColor (s : State) (b : BufferCodec) (i : Nat) : Except EngineFault Color :=
  if bufferCount s b ≤ i then .error (.indexOob i)
  else
    match b with
    | .fixed f => .ok (decodeColor s.cfg f s.mem s.bufBase.toNat i)
    | .indexed x pf => palGet s pf (fieldGet s.cfg s.mem s.bufBase.toNat i x.bits).toNat

/-- The write of element `i` into memory `m`, without the index check: `encode`, or `idx_encode` (42_indexed_codec
R194) for an indexed format; with whether a palette slot was found (true for a fixed-depth format). The descriptors are
`s`'s; `m` is the memory at that moment (`INIT` writes many elements, 43_buffer R212). -/
def storeColor (s : State) (b : BufferCodec) (m : Memory) (i : Nat) (col : Color) : Memory × Bool :=
  match b with
  | .fixed f => (encodeColor s.cfg f m s.bufBase.toNat i col, true)
  | .indexed x pf =>
    match palFind s.cfg pf m s.palBase.toNat (paletteCount s pf) x.bits col with
    | none => (m, false)
    | some k => (fieldSet s.cfg m s.bufBase.toNat i x.bits (BitVec.ofNat x.bits k), true)

/-- `set_color(i, c)` (41_format_codecs R181): the memory after it, and `matched`. -/
def setColor (s : State) (b : BufferCodec) (i : Nat) (col : Color) : Except EngineFault (Memory × Bool) :=
  if bufferCount s b ≤ i then .error (.indexOob i) else .ok (storeColor s b s.mem i col)

/-- The walk of `INIT` over the `n` elements `i, i+1, …`, in ascending order (43_buffer R212): the memory after it, and
whether every write found its slot. Every index it visits is below the count, so `set_color`'s check never fires. -/
def fillColors (s : State) (b : BufferCodec) (col : Color) (i n : Nat) (m : Memory) (allMatched : Bool) :
    Memory × Bool :=
  match n with
  | 0 => (m, allMatched)
  | n + 1 =>
    let r := storeColor s b m i col
    fillColors s b col (i + 1) n r.1 (allMatched && r.2)

/-- The colour operand: `COLOR_IN` in the type `t` (30_encoding R94). -/
def colorOperand (s : State) (t : ColorType) : Color := Color.fromWord t s.colorIn

/-- The coordinate test (60_exceptions R244 (a)): x in `ARG0` before y in `ARG1`, each below `2^16`. -/
def checkPoint (s : State) : Except EngineFault Unit :=
  if 2 ^ 16 ≤ s.arg0.toNat then .error (.argRange s.arg0)
  else if 2 ^ 16 ≤ s.arg1.toNat then .error (.argRange s.arg1)
  else .ok ()

/-- `view_index(x, y)` (44_pixel_view R220): `x + y * VIEW_W`, exact. -/
def viewIndex (s : State) : Nat := s.arg0.toNat + s.arg1.toNat * s.viewW.toNat

end Sys2Proof.Machine
end

