-- ==== Sys2Proof/Machine/Buffer.lean ====
section
/-! DEFINITION. The buffer commands `NUMC`, `GET`, `SET` (41_format_codecs R182 to R184), `INIT` and `CAPB` (43_buffer
R211, R212). -/

namespace Sys2Proof.Machine

/-- `NUMC` (41_format_codecs R182). -/
def execNumc (s : State) : Host.Outcome State Fault Refusal :=
  s.finish do
    let f ← checkFmtBuf s
    return s.putResult (BitVec.ofNat 32 (count s.bufLen.toNat f.bpp)) false

/-- `GET` (41_format_codecs R183). -/
def execGet (s : State) : Host.Outcome State Fault Refusal :=
  s.finish do
    let b ← openBuffer s
    let col ← getColor s b s.arg0.toNat
    return s.putColorOut col.toWord

/-- `SET` (41_format_codecs R184). -/
def execSet (s : State) : Host.Outcome State Fault Refusal :=
  s.finish do
    let b ← openBuffer s
    let r ← setColor s b s.arg0.toNat (colorOperand s b.ctype)
    return s.putMemory r.1 (noMatchOf r.2)

/-- `INIT` (43_buffer R212). -/
def execInit (s : State) : Host.Outcome State Fault Refusal :=
  s.finish do
    let b ← openBuffer s
    let r := fillColors s b (defaultColor b.ctype) 0 (bufferCount s b) s.mem true
    return s.putMemory r.1 (noMatchOf r.2)

/-- `CAPB` (43_buffer R211). -/
def execCapb (s : State) : Host.Outcome State Fault Refusal :=
  s.finish do
    let f ← checkFmtBuf s
    let r := capBytes s.arg0.toNat f.bpp
    if 2 ^ 32 ≤ r then throw (.argRange s.arg0)
    return s.putResult (BitVec.ofNat 32 r) false

end Sys2Proof.Machine
end

