-- ==== Sys2Proof/Machine/Convert.lean ====
section
/-! DEFINITION. The eight conversion commands (40_color_conversions R115, R120 to R127). Each reads the lanes of its
source type from `COLOR_IN`, ignores the other bits, writes `COLOR_OUT` and clears `NOMATCH`; none faults. -/

namespace Sys2Proof.Machine

/-- `CVT.RGB.GS` (40_color_conversions R120). -/
def execCvtRgbGs (s : State) : Host.Outcome State Fault Refusal :=
  .next (s.putColorOut (Color.gs (average (lane 0 s.colorIn) (lane 1 s.colorIn) (lane 2 s.colorIn))).toWord)

/-- `CVT.GS.RGB` (40_color_conversions R121). -/
def execCvtGsRgb (s : State) : Host.Outcome State Fault Refusal :=
  let v := lane 0 s.colorIn
  .next (s.putColorOut (Color.rgb v v v).toWord)

/-- `CVT.GS.RGBA` (40_color_conversions R122). -/
def execCvtGsRgba (s : State) : Host.Outcome State Fault Refusal :=
  let v := lane 0 s.colorIn
  .next (s.putColorOut (Color.rgba v v v 255).toWord)

/-- `CVT.RGBA.RGB` (40_color_conversions R123). -/
def execCvtRgbaRgb (s : State) : Host.Outcome State Fault Refusal :=
  .next (s.putColorOut (Color.rgb (lane 0 s.colorIn) (lane 1 s.colorIn) (lane 2 s.colorIn)).toWord)

/-- `CVT.RGBA.GSA` (40_color_conversions R124). -/
def execCvtRgbaGsa (s : State) : Host.Outcome State Fault Refusal :=
  let v := average (lane 0 s.colorIn) (lane 1 s.colorIn) (lane 2 s.colorIn)
  .next (s.putColorOut (Color.gsa v (lane 3 s.colorIn)).toWord)

/-- `CVT.GSA.RGBA` (40_color_conversions R125). -/
def execCvtGsaRgba (s : State) : Host.Outcome State Fault Refusal :=
  let v := lane 0 s.colorIn
  .next (s.putColorOut (Color.rgba v v v (lane 3 s.colorIn)).toWord)

/-- `CVT.BW.GS` (40_color_conversions R126): the 1-bit expansion of bit 0. -/
def execCvtBwGs (s : State) : Host.Outcome State Fault Refusal :=
  .next (s.putColorOut (Color.gs (expand (s.colorIn.extractLsb' 0 1))).toWord)

/-- `CVT.GS.BW` (40_color_conversions R127): the 1-bit compaction of the value. -/
def execCvtGsBw (s : State) : Host.Outcome State Fault Refusal :=
  .next (s.putColorOut (Color.bw ((compact s.cfg.pack1 1 (lane 0 s.colorIn)).getLsbD 0)).toWord)

end Sys2Proof.Machine
end

