-- ==== Sys2Proof/Machine/Palette.lean ====
section
/-! DEFINITION. The palette commands `PALNUM`, `PALGET`, `PALFIND` (42_indexed_codec R195 to R197). -/

namespace Sys2Proof.Machine

/-- `PALNUM` (42_indexed_codec R195). -/
def execPalnum (s : State) : Host.Outcome State Fault Refusal :=
  s.finish do
    let pf ← checkFmtPal s
    return s.putResult (BitVec.ofNat 32 (paletteCount s pf)) false

/-- `PALGET` (42_indexed_codec R196). -/
def execPalget (s : State) : Host.Outcome State Fault Refusal :=
  s.finish do
    let pf ← checkFmtPal s
    checkPal s
    let col ← palGet s pf s.arg0.toNat
    return s.putColorOut col.toWord

/-- The indexed format `PALFIND` needs in `BUF_FMT` (42_indexed_codec R197): a fixed-depth one raises `BAD_FORMAT`. -/
def checkFmtIndexed (s : State) : Except EngineFault IndexedFormat := do
  match ← checkFmtBuf s with
  | .indexed x => return x
  | .fixed _ => throw (.badFormat s.bufFmt)

/-- `PALFIND` (42_indexed_codec R197): the lowest slot, or `0xFFFFFFFF` with `NOMATCH`. -/
def execPalfind (s : State) : Host.Outcome State Fault Refusal :=
  s.finish do
    let x ← checkFmtIndexed s
    let pf ← checkFmtPal s
    checkPal s
    match palFind s.cfg pf s.mem s.palBase.toNat (paletteCount s pf) x.bits (colorOperand s pf.ctype) with
    | none => return s.putResult 0xFFFFFFFF#32 (noMatchOf false)
    | some k => return s.putResult (BitVec.ofNat 32 k) (noMatchOf true)

end Sys2Proof.Machine
end

