-- ==== Sys2Proof/Machine/View.lean ====
section
/-! DEFINITION. The pixel-view commands `XLATE`, `PGET`, `PSET` (44_pixel_view R222 to R224). No clipping (R221);
`VIEW_H` is read by none of them (R225). -/

namespace Sys2Proof.Machine

/-- `XLATE` (44_pixel_view R222). -/
def execXlate (s : State) : Host.Outcome State Fault Refusal :=
  s.finish do
    checkPoint s
    return s.putResult (BitVec.ofNat 32 (viewIndex s)) false

/-- `PGET` (44_pixel_view R223). -/
def execPget (s : State) : Host.Outcome State Fault Refusal :=
  s.finish do
    let b ← openBuffer s
    checkPoint s
    let col ← getColor s b (viewIndex s)
    return s.putColorOut col.toWord

/-- `PSET` (44_pixel_view R224). -/
def execPset (s : State) : Host.Outcome State Fault Refusal :=
  s.finish do
    let b ← openBuffer s
    checkPoint s
    let r ← setColor s b (viewIndex s) (colorOperand s b.ctype)
    return s.putMemory r.1 (noMatchOf r.2)

end Sys2Proof.Machine
end

