-- ==== Sys2Proof/Syntax.lean ====
section
/-! DEFINITION. The 19 commands of 30_encoding Table 30-2 (R86). A command word carries no operand (R83), so no
constructor has an argument. -/

namespace Sys2Proof

/-- The command set (30_encoding R86): one constructor for each row of Table 30-2, in its order. -/
inductive Instr where
  /-- `NUMC`, word `0x00000001` (41_format_codecs R182). -/
  | numc
  /-- `GET`, word `0x00000002` (41_format_codecs R183). -/
  | get
  /-- `SET`, word `0x00000003` (41_format_codecs R184). -/
  | set
  /-- `INIT`, word `0x00000004` (43_buffer R212). -/
  | init
  /-- `CAPB`, word `0x00000005` (43_buffer R211). -/
  | capb
  /-- `XLATE`, word `0x00000008` (44_pixel_view R222). -/
  | xlate
  /-- `PGET`, word `0x00000009` (44_pixel_view R223). -/
  | pget
  /-- `PSET`, word `0x0000000A` (44_pixel_view R224). -/
  | pset
  /-- `PALNUM`, word `0x00000010` (42_indexed_codec R195). -/
  | palnum
  /-- `PALGET`, word `0x00000011` (42_indexed_codec R196). -/
  | palget
  /-- `PALFIND`, word `0x00000012` (42_indexed_codec R197). -/
  | palfind
  /-- `CVT.RGB.GS`, word `0x00000020` (40_color_conversions R120). -/
  | cvtRgbGs
  /-- `CVT.GS.RGB`, word `0x00000021` (40_color_conversions R121). -/
  | cvtGsRgb
  /-- `CVT.GS.RGBA`, word `0x00000022` (40_color_conversions R122). -/
  | cvtGsRgba
  /-- `CVT.RGBA.RGB`, word `0x00000023` (40_color_conversions R123). -/
  | cvtRgbaRgb
  /-- `CVT.RGBA.GSA`, word `0x00000024` (40_color_conversions R124). -/
  | cvtRgbaGsa
  /-- `CVT.GSA.RGBA`, word `0x00000025` (40_color_conversions R125). -/
  | cvtGsaRgba
  /-- `CVT.BW.GS`, word `0x00000026` (40_color_conversions R126). -/
  | cvtBwGs
  /-- `CVT.GS.BW`, word `0x00000027` (40_color_conversions R127). -/
  | cvtGsBw
deriving DecidableEq, Repr

end Sys2Proof
end

