-- ==== Sys2Proof/Machine/Dispatch.lean ====
section
/-! DEFINITION. One arm for each command of 30_encoding Table 30-2. -/

namespace Sys2Proof.Machine

/-- Running a command (10_state R25); that the engine is not faulted is tested before it (10_state R44, log 10). -/
def exec (i : Instr) (s : State) : Host.Outcome State Fault Refusal :=
  match i with
  | .numc => Sys2Proof.Machine.execNumc s
  | .get => Sys2Proof.Machine.execGet s
  | .set => Sys2Proof.Machine.execSet s
  | .init => Sys2Proof.Machine.execInit s
  | .capb => Sys2Proof.Machine.execCapb s
  | .xlate => Sys2Proof.Machine.execXlate s
  | .pget => Sys2Proof.Machine.execPget s
  | .pset => Sys2Proof.Machine.execPset s
  | .palnum => Sys2Proof.Machine.execPalnum s
  | .palget => Sys2Proof.Machine.execPalget s
  | .palfind => Sys2Proof.Machine.execPalfind s
  | .cvtRgbGs => Sys2Proof.Machine.execCvtRgbGs s
  | .cvtGsRgb => Sys2Proof.Machine.execCvtGsRgb s
  | .cvtGsRgba => Sys2Proof.Machine.execCvtGsRgba s
  | .cvtRgbaRgb => Sys2Proof.Machine.execCvtRgbaRgb s
  | .cvtRgbaGsa => Sys2Proof.Machine.execCvtRgbaGsa s
  | .cvtGsaRgba => Sys2Proof.Machine.execCvtGsaRgba s
  | .cvtBwGs => Sys2Proof.Machine.execCvtBwGs s
  | .cvtGsBw => Sys2Proof.Machine.execCvtGsBw s

end Sys2Proof.Machine
end

