-- ==== Sys2Proof/WellFormed.lean ====
section
/-! DEFINITION. Which terms of the syntax the spec gives a meaning. -/

namespace Sys2Proof

/-- Every command is well formed: a command word carries no operand that could be wrong (30_encoding R83). -/
def Instr.wellFormed (_ : Instr) : Bool := true

/-- A host action the interface has: a register transaction is aligned. Whether an address of `MEM` exists depends on
`ADDR_BITS` and is checked when the action runs. -/
def Machine.HostAction.wellFormed : HostAction → Bool
  | .regWrite off _ => offsetAligned off
  | .regRead off => offsetAligned off
  | .memWrite _ _ => true
  | .memRead _ => true

end Sys2Proof
end

