-- ==== Sys2Proof/Decode.lean ====
section
/-! DEFINITION. Decoding a command word (30_encoding R82, R86 to R89) and the encoder. -/

namespace Sys2Proof

/-- Why a word is no command (30_encoding R82); either way the engine raises `ILLEGAL_CMD`. -/
inductive DecodeError where
  /-- One of bits [31:8] is set (30_encoding R88). -/
  | reservedBits
  /-- The opcode byte has no row in Table 30-2 (30_encoding R87). -/
  | reservedOpcode
deriving DecidableEq, Repr

/-- The row of Table 30-2 an opcode byte selects. -/
def decodeOpcode (opc : BitVec 8) : Except DecodeError Instr :=
  match opc with
  | 0x01#8 => .ok .numc
  | 0x02#8 => .ok .get
  | 0x03#8 => .ok .set
  | 0x04#8 => .ok .init
  | 0x05#8 => .ok .capb
  | 0x08#8 => .ok .xlate
  | 0x09#8 => .ok .pget
  | 0x0A#8 => .ok .pset
  | 0x10#8 => .ok .palnum
  | 0x11#8 => .ok .palget
  | 0x12#8 => .ok .palfind
  | 0x20#8 => .ok .cvtRgbGs
  | 0x21#8 => .ok .cvtGsRgb
  | 0x22#8 => .ok .cvtGsRgba
  | 0x23#8 => .ok .cvtRgbaRgb
  | 0x24#8 => .ok .cvtRgbaGsa
  | 0x25#8 => .ok .cvtGsaRgba
  | 0x26#8 => .ok .cvtBwGs
  | 0x27#8 => .ok .cvtGsBw
  | _ => .error .reservedOpcode

/-- Decoding a command word (30_encoding R82): bits [31:8] must be 0 and bits [7:0] select a row. -/
def decode (w : Word) : Except DecodeError Instr :=
  if w.extractLsb' 8 24 = 0#24 then decodeOpcode (w.extractLsb' 0 8) else .error .reservedBits

/-- The opcode byte of a command (Table 30-2). -/
def Instr.opcode : Instr → BitVec 8
  | .numc => 0x01#8
  | .get => 0x02#8
  | .set => 0x03#8
  | .init => 0x04#8
  | .capb => 0x05#8
  | .xlate => 0x08#8
  | .pget => 0x09#8
  | .pset => 0x0A#8
  | .palnum => 0x10#8
  | .palget => 0x11#8
  | .palfind => 0x12#8
  | .cvtRgbGs => 0x20#8
  | .cvtGsRgb => 0x21#8
  | .cvtGsRgba => 0x22#8
  | .cvtRgbaRgb => 0x23#8
  | .cvtRgbaGsa => 0x24#8
  | .cvtGsaRgba => 0x25#8
  | .cvtBwGs => 0x26#8
  | .cvtGsBw => 0x27#8

/-- The command word of a command: `0x000000` followed by the opcode byte (Table 30-1, Table 30-2). -/
def encode (i : Instr) : Word := i.opcode.setWidth 32

/-- The command word in the low `nbits` bits of `w` (bit 0 the least significant, every higher bit 0), or none where
those bits do not fit the one 32-bit format (30_encoding R97). -/
def tableWord (nbits w : Nat) : Option Word :=
  let v := w % 2 ^ nbits
  if v < 2 ^ 32 then some (BitVec.ofNat 32 v) else none

/-- The command the decoder reads from a row of spec/opcode_table.json. -/
def decodeTableWord (nbits w : Nat) : Option Instr :=
  match tableWord nbits w with
  | some v => (decode v).toOption
  | none => none

end Sys2Proof
end

