-- ==== Sys2Proof/Machine/HostInterface.lean ====
section
/-! DEFINITION. One host action (30_encoding R80), for any way `run` of running a command; Step.lean gives it `exec`. -/

namespace Sys2Proof.Machine

/-- A write to `CTRL` (10_state R24): bit 0 resets, at any time; the other bits are ignored. -/
def ctrlWrite (w : Word) (s : State) : State := if w.getLsbD 0 then s.softReset else s

/-- A write to `CMD` while the engine is not faulted (10_state R25): decode, then run to completion; an illegal word
raises `ILLEGAL_CMD` (60_exceptions R242). -/
def runCommand (run : Instr → State → Host.Outcome State Fault Refusal) (w : Word) (s : State) :
    Host.Outcome State Fault Refusal :=
  match decode w with
  | .ok i => run i s
  | .error _ => .next (s.raise (.illegalCmd w))

/-- `RegWrite(off, w)` (30_encoding R80, R81): while FAULT is 1 every write but one to `CTRL` is ignored
(10_state R44). -/
def regWrite (run : Instr → State → Host.Outcome State Fault Refusal) (off : BitVec 8) (w : Word) (s : State) :
    Host.Outcome State Fault Refusal :=
  if offsetAligned off then
    match Reg.ofOffset off with
    | none => .next s
    | some .ctrl => .next (ctrlWrite w s)
    | some .cmd => if s.fault then .next s else runCommand run w s
    | some r => .next (if s.fault then s else s.writeReg r w)
  else .refused (.unalignedTransaction off)

/-- What `RegRead(off)` returns (30_encoding R81): a reserved offset reads 0. -/
def regValue (s : State) (off : BitVec 8) : Word :=
  match Reg.ofOffset off with
  | none => 0
  | some r => s.readReg r

/-- The host has seen one more value. -/
def State.observe (s : State) (o : Observation) : State := { s with observed := s.observed ++ [o] }

/-- `RegRead(off)` (30_encoding R80, R81); no read has a side effect on the engine (20_memory R67). -/
def regRead (off : BitVec 8) (s : State) : Host.Outcome State Fault Refusal :=
  if offsetAligned off then .next (s.observe (.reg (regValue s off))) else .refused (.unalignedTransaction off)

/-- `HostMemWrite(a, v)` (20_memory R69): the engine's registers play no part. -/
def hostMemWrite (a : Word) (v : Byte) (s : State) : Host.Outcome State Fault Refusal :=
  if a.toNat < s.cfg.memSize then .next { s with mem := s.mem.write a.toNat v } else .fault (.noSuchAddress a)

/-- `HostMemRead(a)` (20_memory R69). -/
def hostMemRead (a : Word) (s : State) : Host.Outcome State Fault Refusal :=
  if a.toNat < s.cfg.memSize then .next (s.observe (.mem (s.mem.read a.toNat))) else .fault (.noSuchAddress a)

/-- One host action. -/
def perform (run : Instr → State → Host.Outcome State Fault Refusal) (act : HostAction) (s : State) :
    Host.Outcome State Fault Refusal :=
  match act with
  | .regWrite off w => regWrite run off w s
  | .regRead off => regRead off s
  | .memWrite a v => hostMemWrite a v s
  | .memRead a => hostMemRead a s

/-- The host's next action, taken from its list and performed; with none left nothing happens (00_scope R10,
70_reset_and_hazards R278; log 4). -/
def hostStep (run : Instr → State → Host.Outcome State Fault Refusal) (s : State) :
    Host.Outcome State Fault Refusal :=
  match s.program with
  | [] => .next s
  | act :: rest => perform run act { s with program := rest }

/-- The host's list with a write of a command word to `CMD` put before it. -/
def withCommand (s : State) (w : Word) : State := { s with program := .regWrite Reg.cmd.offset w :: s.program }

end Sys2Proof.Machine
end

