-- ==== Sys2Proof/Machine/Step.lean ====
section
/-! DEFINITION. One step: one host action, run to completion (00_scope R10, 20_memory R68). -/

namespace Sys2Proof.Machine

/-- One step of the machine. -/
def step (s : State) : Host.Outcome State Fault Refusal := hostStep exec s

/-- The state whose very next step writes the command word to `CMD` (log 3). A word that does not fit the one 32-bit
format changes nothing. -/
def State.withFetchWord (s : State) (nbits w : Nat) : State :=
  match tableWord nbits w with
  | some v => withCommand s v
  | none => s

end Sys2Proof.Machine
end

