-- ==== Sys2Proof/Safety.lean ====
section
/-! DEFINITION. The terms claims use: the invariant of the machine, the footprint of an element (41_format_codecs Table
41-1), what a format can express (R185), the types of colour operands and results (30_encoding R93, R94), and Table 60-1
of 60_exceptions as an ordered list of tests (R253). -/

namespace Sys2Proof.Machine

/-- What holds of every reachable state: `MEM` is canonical and has a byte only where the address space has one
(10_state R42); the base registers keep their unimplemented bits 0 (10_state R26, R29); `CAUSE` and `FINFO` are 0 while
`FAULT` is 0 (10_state R39, R40), and `CAUSE` is one of the six causes while it is 1 (60_exceptions R241). -/
abbrev State.Inv (s : State) : Prop :=
  s.mem.wf = true ∧ s.mem.below s.cfg.memSize = true ∧
  s.bufBase.toNat < s.cfg.memSize ∧ s.palBase.toNat < s.cfg.memSize ∧
  (s.fault = false → s.cause = 0 ∧ s.finfo = 0) ∧
  (s.fault = true → 1 ≤ s.cause.toNat ∧ s.cause.toNat ≤ 6)

/-! ## Descriptors in order (20_memory R64; 60_exceptions R248 to R251) -/

/-- The buffer window lies in memory (20_memory R64). -/
abbrev State.BufferFits (s : State) : Prop := s.bufBase.toNat + s.bufLen.toNat ≤ 2 ^ s.cfg.addrBits

/-- The palette window lies in memory (20_memory R64). -/
abbrev State.PaletteFits (s : State) : Prop := s.palBase.toNat + s.palLen.toNat ≤ 2 ^ s.cfg.addrBits

/-- The buffer descriptor names the fixed-depth format `f` and its window lies in memory. -/
abbrev State.OpensFixed (s : State) (f : FixedFormat) : Prop :=
  Format.ofCode s.bufFmt = some (.fixed f) ∧ s.BufferFits

/-- The palette descriptor names the fixed-depth format `pf` and its window lies in memory. -/
abbrev State.OpensPalette (s : State) (pf : FixedFormat) : Prop :=
  Format.ofCode s.palFmt = some (.fixed pf) ∧ s.PaletteFits

/-- The buffer descriptor names the indexed format `x` and its window lies in memory; so does the palette's. -/
abbrev State.OpensIndexed (s : State) (x : IndexedFormat) (pf : FixedFormat) : Prop :=
  Format.ofCode s.bufFmt = some (.indexed x) ∧ s.BufferFits ∧ s.OpensPalette pf

/-- The number of elements of the buffer, for a format of `bpp` bits (41_format_codecs R140). -/
abbrev State.elements (s : State) (bpp : Nat) : Nat := s.bufLen.toNat * 8 / bpp

/-- The number of entries of the palette, for entries of `bpp` bits (42_indexed_codec R198 (b)). -/
abbrev State.entries (s : State) (bpp : Nat) : Nat := s.palLen.toNat * 8 / bpp

/-- The number of palette slots a reverse scan visits (42_indexed_codec R192). -/
abbrev State.slots (s : State) (x : IndexedFormat) (pf : FixedFormat) : Nat := min (2 ^ x.bits) (s.entries pf.bpp)

/-- The colour of palette slot `k` (42_indexed_codec R191). -/
abbrev State.entry (s : State) (pf : FixedFormat) (k : Nat) : Color :=
  decodeColor s.cfg pf s.mem s.palBase.toNat k

/-- Both coordinates are below `2^16` (60_exceptions R244 (a)). -/
abbrev State.PointFits (s : State) : Prop := s.arg0.toNat < 2 ^ 16 ∧ s.arg1.toNat < 2 ^ 16

/-- The element index of the point in `ARG0`, `ARG1` (44_pixel_view R220). -/
abbrev State.pointIndex (s : State) : Nat := s.arg0.toNat + s.arg1.toNat * s.viewW.toNat

/-- Slot `k` holds the colour and no lower slot does (42_indexed_codec R192). -/
abbrev State.LowestSlot (s : State) (x : IndexedFormat) (pf : FixedFormat) (col : Color) (k : Nat) : Prop :=
  k < s.slots x pf ∧ s.entry pf k = col ∧ ∀ j, j < k → s.entry pf j ≠ col

/-- No slot the scan visits holds the colour (42_indexed_codec R192). -/
abbrev State.NoSlot (s : State) (x : IndexedFormat) (pf : FixedFormat) (col : Color) : Prop :=
  ∀ j, j < s.slots x pf → s.entry pf j ≠ col

/-! ## Fields and scaling as arithmetic on numbers -/

/-- The bit offset of a 4-bit field (41_format_codecs R142). -/
def nibbleShift (c : Config) (i : Nat) : Nat :=
  match c.nibbles with
  | .lowFirst => i % 2 * 4
  | .highFirst => (1 - i % 2) * 4

/-- A byte with its `w`-bit field at bit `sh` replaced by `f` (41_format_codecs R143), as a number. -/
def putField (old : Byte) (sh w f : Nat) : Byte :=
  BitVec.ofNat 8 (old.toNat / 2 ^ (sh + w) * 2 ^ (sh + w) + f * 2 ^ sh + old.toNat % 2 ^ sh)

/-- An 8-bit channel as 1 bit (40_color_conversions R113). -/
def packOne (p : Pack1Rule) (v : Byte) : Nat :=
  match p with
  | .nonzero => if 0 < v.toNat then 1 else 0
  | .msb => v.toNat / 128

/-- The constants `K(2)` to `K(8)` (40_color_conversions R111). -/
def scaleTable : List (Nat × Nat) := [(2, 85), (3, 36), (4, 17), (5, 8), (6, 4), (7, 2), (8, 1)]

/-! ## Footprints (41_format_codecs R179, Table 41-1) -/

/-- The byte and the owned bits of a `w`-bit field, `w` in {1, 2, 4, 8}. -/
def fieldFootprint (c : Config) (i w : Nat) : List (Nat × Byte) :=
  [(i / (8 / w), BitVec.ofNat 8 (2 ^ w - 1) <<< pos c i w)]

/-- The byte offsets element `i` touches, each with the mask of the bits it owns there (Table 41-1). -/
def footprint (c : Config) (f : FixedFormat) (i : Nat) : List (Nat × Byte) :=
  match f with
  | .bw1 => fieldFootprint c i 1
  | .gs1 => fieldFootprint c i 1
  | .gs2 => fieldFootprint c i 2
  | .gsa11 => fieldFootprint c i 2
  | .gs4 => fieldFootprint c i 4
  | .gsa22 => fieldFootprint c i 4
  | .gsa31 => fieldFootprint c i 4
  | .gs8 => [(i, 0xFF#8)]
  | .gsa44 => [(i, 0xFF#8)]
  | .gsa71 => [(i, 0xFF#8)]
  | .rgb332 => [(i, 0xFF#8)]
  | .rgb444 =>
    if i % 2 = 0 then [(3 * (i / 2), 0xFF#8), (3 * (i / 2) + 1, 0xF0#8)]
    else [(3 * (i / 2) + 1, 0x0F#8), (3 * (i / 2) + 2, 0xFF#8)]
  | .rgb565 => [(2 * i, 0xFF#8), (2 * i + 1, 0xFF#8)]
  | .rgba4444 => [(2 * i, 0xFF#8), (2 * i + 1, 0xFF#8)]
  | .rgba5551 => [(2 * i, 0xFF#8), (2 * i + 1, 0xFF#8)]
  | .rgb888 => [(3 * i, 0xFF#8), (3 * i + 1, 0xFF#8), (3 * i + 2, 0xFF#8)]
  | .rgba8888 => [(4 * i, 0xFF#8), (4 * i + 1, 0xFF#8), (4 * i + 2, 0xFF#8), (4 * i + 3, 0xFF#8)]

/-- Table 41-1 for every valid format: an indexed format is addressed as the field of its width. -/
def Format.footprint (c : Config) (f : Format) (i : Nat) : List (Nat × Byte) :=
  match f with
  | .fixed f => Machine.footprint c f i
  | .indexed x => fieldFootprint c i x.bits

/-- The number of bits a footprint owns. -/
def ownedBits (fp : List (Nat × Byte)) : Nat :=
  (fp.map fun e => ((List.range 8).filter fun b => e.2.getLsbD b).length).sum

/-- Bit `b` of the byte at address `a` is owned by an element of the window at `base`. -/
def ownsBitAt (fp : List (Nat × Byte)) (base a b : Nat) : Prop :=
  ∃ k mask, a = base + k ∧ (k, mask) ∈ fp ∧ mask.getLsbD b = true

/-- A transaction on the register space (30_encoding R80). -/
def HostAction.isRegister : HostAction → Bool
  | .regWrite _ _ => true
  | .regRead _ => true
  | .memWrite _ _ => false
  | .memRead _ => false

/-- The address `a` is one of an element's bytes, in the window at `base`. -/
def touches (fp : List (Nat × Byte)) (base a : Nat) : Prop := ∃ k mask, a = base + k ∧ (k, mask) ∈ fp

/-! ## What a format can express (41_format_codecs R185) -/

/-- The widths of the scaled channels of a format, in the order of the colour's channels (41_format_codecs R145 to
R178); `BW1` scales none. -/
def FixedFormat.widths : FixedFormat → List Nat
  | .bw1 => []
  | .gs1 => [1]
  | .gs2 => [2]
  | .gs4 => [4]
  | .gs8 => [8]
  | .gsa11 => [1, 1]
  | .gsa22 => [2, 2]
  | .gsa31 => [3, 1]
  | .gsa44 => [4, 4]
  | .gsa71 => [7, 1]
  | .rgb332 => [3, 3, 2]
  | .rgb444 => [4, 4, 4]
  | .rgb565 => [5, 6, 5]
  | .rgb888 => [8, 8, 8]
  | .rgba4444 => [4, 4, 4, 4]
  | .rgba5551 => [5, 5, 5, 1]
  | .rgba8888 => [8, 8, 8, 8]

/-- The 8-bit channels of a colour: value or red first, alpha last; a `BW` value has none. -/
def Color.channels : Color → List Byte
  | .bw _ => []
  | .gs v => [v]
  | .gsa v a => [v, a]
  | .rgb r g b => [r, g, b]
  | .rgba r g b a => [r, g, b, a]

/-- A colour "expressible exactly in F's bit depth" (41_format_codecs R185 (a)): of the format's type, every channel in
the image of `expand` at its width. -/
def Expressible (f : FixedFormat) (col : Color) : Prop :=
  col.type = f.ctype ∧ List.Forall₂ (fun n v => ∃ x : BitVec n, expand x = v) f.widths col.channels

/-- What a colour reads back as (41_format_codecs R185 (b)): every channel compacted and expanded again, with the
widths `ns`. -/
def requantize (p : Pack1Rule) (ns : List Nat) (chs : List Byte) : List Byte :=
  List.zipWith (fun n v => expand (compact p n v)) ns chs

/-! ## Colour operands and colour results (30_encoding R93, R94) -/

/-- The bits of a colour word that Table 30-4 of 30_encoding lists for a type (R93). -/
def laneBits : ColorType → Word
  | .bw => 0x00000001#32
  | .gs => 0x000000FF#32
  | .gsa => 0xFF0000FF#32
  | .rgb => 0x00FFFFFF#32
  | .rgba => 0xFFFFFFFF#32

/-- The colour type of the palette's entries, when the palette's format has one (30_encoding R90). -/
def State.entryType (s : State) : Option ColorType :=
  match Format.ofCode s.palFmt with
  | some (.fixed pf) => some pf.ctype
  | some (.indexed _) => none
  | none => none

/-- The colour type of the buffer's elements: of its format, or of the palette's entries (30_encoding R90). -/
def State.elementType (s : State) : Option ColorType :=
  match Format.ofCode s.bufFmt with
  | some (.fixed f) => some f.ctype
  | some (.indexed _) => s.entryType
  | none => none

/-- The type in which a command reads `COLOR_IN` (30_encoding R93, R94); none for a command that takes no colour, or
whose descriptors name no type. -/
def operandType (i : Instr) (s : State) : Option ColorType :=
  match i with
  | .numc => none
  | .get => none
  | .set => s.elementType
  | .init => none
  | .capb => none
  | .xlate => none
  | .pget => none
  | .pset => s.elementType
  | .palnum => none
  | .palget => none
  | .palfind => s.entryType
  | .cvtRgbGs => some .rgb
  | .cvtGsRgb => some .gs
  | .cvtGsRgba => some .gs
  | .cvtRgbaRgb => some .rgba
  | .cvtRgbaGsa => some .rgba
  | .cvtGsaRgba => some .gsa
  | .cvtBwGs => some .bw
  | .cvtGsBw => some .gs

/-- The type of the colour a command writes to `COLOR_OUT` (30_encoding R93, R94); none for a command that produces no
colour, or whose descriptors name no type. -/
def resultType (i : Instr) (s : State) : Option ColorType :=
  match i with
  | .numc => none
  | .get => s.elementType
  | .set => none
  | .init => none
  | .capb => none
  | .xlate => none
  | .pget => s.elementType
  | .pset => none
  | .palnum => none
  | .palget => s.entryType
  | .palfind => none
  | .cvtRgbGs => some .gs
  | .cvtGsRgb => some .rgb
  | .cvtGsRgba => some .rgba
  | .cvtRgbaRgb => some .rgb
  | .cvtRgbaGsa => some .gsa
  | .cvtGsaRgba => some .rgba
  | .cvtBwGs => some .gs
  | .cvtGsBw => some .bw

/-! ## Table 60-1 as ordered tests (60_exceptions R241, R253) -/

/-- `bits_per_color` of each format code (30_encoding Table 30-3). -/
def formatTable : List (Nat × Nat) :=
  [(0x00, 1), (0x01, 1), (0x02, 2), (0x03, 4), (0x04, 8), (0x05, 2), (0x06, 4), (0x07, 4), (0x08, 8), (0x09, 8),
   (0x0A, 8), (0x0B, 12), (0x0C, 16), (0x0D, 24), (0x0E, 16), (0x0F, 16), (0x10, 32),
   (0x20, 1), (0x21, 2), (0x22, 4), (0x23, 8)]

/-- `bpp` of the format a code names in Table 30-3; 0 for a reserved code. -/
def bppOfCode (code : BitVec 8) : Nat := (formatTable.lookup code.toNat).getD 0

/-- The code is one of the 21 of Table 30-3. -/
def codeKnown (code : BitVec 8) : Bool :=
  decide (code.toNat ≤ 0x10) || (decide (0x20 ≤ code.toNat) && decide (code.toNat ≤ 0x23))

/-- The code is one of the four indexed ones. -/
def codeIndexed (code : BitVec 8) : Bool := decide (0x20 ≤ code.toNat) && decide (code.toNat ≤ 0x23)

/-- The code is one of the 17 fixed-depth ones. -/
def codeFixed (code : BitVec 8) : Bool := decide (code.toNat ≤ 0x10)

/-- One test of Table 60-1: when it fires, the cause code, and the value recorded. -/
structure FaultTest where
  fires : Bool
  code : BitVec 4
  info : Word
deriving DecidableEq, Repr

/-- `BAD_FORMAT` for the buffer's format register (60_exceptions R248). -/
def bufferFormatTest (s : State) : FaultTest := ⟨!codeKnown s.bufFmt, 2, s.bufFmt.setWidth 32⟩

/-- `BAD_FORMAT` for the palette's format register (60_exceptions R249). -/
def paletteFormatTest (s : State) : FaultTest := ⟨!codeFixed s.palFmt, 2, s.palFmt.setWidth 32⟩

/-- `BAD_WINDOW` for the buffer window (60_exceptions R250). -/
def bufferWindowTest (s : State) : FaultTest :=
  ⟨decide (2 ^ s.cfg.addrBits < s.bufBase.toNat + s.bufLen.toNat), 3, 0⟩

/-- `BAD_WINDOW` for the palette window (60_exceptions R251). -/
def paletteWindowTest (s : State) : FaultTest :=
  ⟨decide (2 ^ s.cfg.addrBits < s.palBase.toNat + s.palLen.toNat), 3, 1⟩

/-- A test made only when the buffer's format is indexed. -/
def whenIndexed (s : State) (t : FaultTest) : FaultTest := { t with fires := codeIndexed s.bufFmt && t.fires }

/-- The tests that open `GET`, `SET`, `INIT`, `PGET`, `PSET`. -/
def openTests (s : State) : List FaultTest :=
  [bufferFormatTest s, whenIndexed s (paletteFormatTest s), bufferWindowTest s, whenIndexed s (paletteWindowTest s)]

/-- `ARG_RANGE` for x, then for y (60_exceptions R244 (a)). -/
def pointTests (s : State) : List FaultTest :=
  [⟨decide (2 ^ 16 ≤ s.arg0.toNat), 4, s.arg0⟩, ⟨decide (2 ^ 16 ≤ s.arg1.toNat), 4, s.arg1⟩]

/-- `INDEX_OOB` for the element index `i` (60_exceptions R247). -/
def indexTest (s : State) (i : Nat) : FaultTest :=
  ⟨decide (s.bufLen.toNat * 8 / bppOfCode s.bufFmt ≤ i), 5, BitVec.ofNat 32 i⟩

/-- The slot number stored for element `i` of an indexed buffer (42_indexed_codec R190). -/
def storedSlot (s : State) (i : Nat) : Nat :=
  (fieldGet s.cfg s.mem s.bufBase.toNat i (bppOfCode s.bufFmt)).toNat

/-- `PAL_OOB` for the slot `k` (60_exceptions R252). -/
def slotTest (s : State) (k : Nat) : FaultTest :=
  ⟨decide (s.palLen.toNat * 8 / bppOfCode s.palFmt ≤ k), 6, BitVec.ofNat 32 k⟩

/-- The tests a command makes, in ascending order of cause code (60_exceptions R241, R253). -/
def faultTests (i : Instr) (s : State) : List FaultTest :=
  let viewIdx := s.arg0.toNat + s.arg1.toNat * s.viewW.toNat
  match i with
  | .numc => [bufferFormatTest s]
  | .get => openTests s ++ [indexTest s s.arg0.toNat, whenIndexed s (slotTest s (storedSlot s s.arg0.toNat))]
  | .set => openTests s ++ [indexTest s s.arg0.toNat]
  | .init => openTests s
  | .capb =>
    [bufferFormatTest s, ⟨decide (2 ^ 32 ≤ (s.arg0.toNat * bppOfCode s.bufFmt + 7) / 8), 4, s.arg0⟩]
  | .xlate => pointTests s
  | .pget =>
    openTests s ++ pointTests s ++ [indexTest s viewIdx, whenIndexed s (slotTest s (storedSlot s viewIdx))]
  | .pset => openTests s ++ pointTests s ++ [indexTest s viewIdx]
  | .palnum => [paletteFormatTest s]
  | .palget => [paletteFormatTest s, paletteWindowTest s, slotTest s s.arg0.toNat]
  | .palfind =>
    [⟨!codeIndexed s.bufFmt, 2, s.bufFmt.setWidth 32⟩, paletteFormatTest s, paletteWindowTest s]
  | .cvtRgbGs => []
  | .cvtGsRgb => []
  | .cvtGsRgba => []
  | .cvtRgbaRgb => []
  | .cvtRgbaGsa => []
  | .cvtGsaRgba => []
  | .cvtBwGs => []
  | .cvtGsBw => []

/-- The fault a command raises: the first of its tests that fires (60_exceptions R253). -/
def firstFault (i : Instr) (s : State) : Option FaultTest := (faultTests i s).find? (·.fires)

end Sys2Proof.Machine
end

