-- ==== Sys2Proof/Certificates/Slice0/Obligations.lean ====
section
/-! DEFINITION. The statements for the provers. Numbers of rules are those of spec/; "log n" is notes/assumptions/n.md. -/

open Sys2Proof Sys2Proof.Machine

/-! ## Encoding -/

/-- The 19 command words of Table 30-2, written out, decode to the commands they stand for (30_encoding R86). -/
def Obligations.TableWordsDecode : Prop :=
  decode 0x00000001#32 = .ok .numc ∧ decode 0x00000002#32 = .ok .get ∧ decode 0x00000003#32 = .ok .set ∧
  decode 0x00000004#32 = .ok .init ∧ decode 0x00000005#32 = .ok .capb ∧ decode 0x00000008#32 = .ok .xlate ∧
  decode 0x00000009#32 = .ok .pget ∧ decode 0x0000000A#32 = .ok .pset ∧ decode 0x00000010#32 = .ok .palnum ∧
  decode 0x00000011#32 = .ok .palget ∧ decode 0x00000012#32 = .ok .palfind ∧ decode 0x00000020#32 = .ok .cvtRgbGs ∧
  decode 0x00000021#32 = .ok .cvtGsRgb ∧ decode 0x00000022#32 = .ok .cvtGsRgba ∧
  decode 0x00000023#32 = .ok .cvtRgbaRgb ∧ decode 0x00000024#32 = .ok .cvtRgbaGsa ∧
  decode 0x00000025#32 = .ok .cvtGsaRgba ∧ decode 0x00000026#32 = .ok .cvtBwGs ∧ decode 0x00000027#32 = .ok .cvtGsBw

/-- Decode and encode agree, over every command and over every 32-bit word (30_encoding R82, R86): a command's word
decodes to it, also when read as a table row of 32 bits, and a word that decodes is that command's word, bit for bit. -/
def Obligations.DecodeEncodeAgree : Prop :=
  (∀ i : Instr, i.wellFormed = true →
    decode (encode i) = .ok i ∧ decodeTableWord 32 (encode i).toNat = some i) ∧
  (∀ (w : Word) (i : Instr), decode w = .ok i → encode i = w)

/-- 30_encoding R89: exactly 19 words decode, and no word executes as another one's command. -/
def Obligations.NineteenWords : Prop :=
  (∃ ws : List Word, ws.length = 19 ∧ ws.Nodup ∧ ∀ w : Word, (∃ i, decode w = .ok i) ↔ w ∈ ws) ∧
  (∀ (w w' : Word) (i : Instr), decode w = .ok i → decode w' = .ok i → w = w')

/-- 60_exceptions R242, 30_encoding R87, R88: on an engine that is not faulted, a write to `CMD` of a word with one of
bits [31:8] set, or whose opcode byte is reserved, raises `ILLEGAL_CMD` with the word, whatever the registers hold. -/
def Obligations.IllegalWordFaults : Prop :=
  ∀ (s : State) (w : Word) (rest : List HostAction),
    s.fault = false → s.program = .regWrite 0x08#8 w :: rest →
    (256 ≤ w.toNat ∨ w.toNat = 0x00 ∨ w.toNat = 0x06 ∨ w.toNat = 0x07 ∨ (0x0B ≤ w.toNat ∧ w.toNat ≤ 0x0F) ∨
      (0x13 ≤ w.toNat ∧ w.toNat ≤ 0x1F) ∨ 0x28 ≤ w.toNat) →
    step s = .next { s with program := rest, fault := true, cause := 1, finfo := w }

/-- 30_encoding Table 30-3 (R90, R91): the format each code names, and the bits per element; the other codes name
none. -/
def Obligations.FormatCodes : Prop :=
  ([0x00#8, 0x01#8, 0x02#8, 0x03#8, 0x04#8, 0x05#8, 0x06#8, 0x07#8, 0x08#8, 0x09#8, 0x0A#8, 0x0B#8, 0x0C#8, 0x0D#8,
      0x0E#8, 0x0F#8, 0x10#8, 0x20#8, 0x21#8, 0x22#8, 0x23#8].map Format.ofCode =
    [some (.fixed .bw1), some (.fixed .gs1), some (.fixed .gs2), some (.fixed .gs4), some (.fixed .gs8),
      some (.fixed .gsa11), some (.fixed .gsa22), some (.fixed .gsa31), some (.fixed .gsa44), some (.fixed .gsa71),
      some (.fixed .rgb332), some (.fixed .rgb444), some (.fixed .rgb565), some (.fixed .rgb888),
      some (.fixed .rgba4444), some (.fixed .rgba5551), some (.fixed .rgba8888),
      some (.indexed .idx1), some (.indexed .idx2), some (.indexed .idx4), some (.indexed .idx8)]) ∧
  (∀ code : BitVec 8, (Format.ofCode code).map Format.bpp = formatTable.lookup code.toNat)

/-! ## The host interface -/

/-- 30_encoding R82, 10_state R25: a write of a command word to `CMD`, on an engine that is not faulted, runs the
decoded command, in one step, after the action has left the host's list; and `withFetchWord` places such a write
(log 3). -/
def Obligations.StepRunsCommand : Prop :=
  (∀ (s : State) (w : Word) (rest : List HostAction) (i : Instr),
    s.fault = false → s.program = .regWrite 0x08#8 w :: rest → decode w = .ok i → i.wellFormed = true →
    step s = exec i { s with program := rest }) ∧
  (∀ (s : State) (w : Word) (i : Instr),
    s.fault = false → decode w = .ok i → step (s.withFetchWord 32 w.toNat) = exec i s)

/-- 10_state R44: while `FAULT` is 1 every aligned register write but one to `CTRL` is ignored, register reads return
the frozen values, a register transaction leaves `MEM` alone, and only a reset ends it. -/
def Obligations.FaultFreezes : Prop :=
  ∀ (s : State) (act : HostAction) (rest : List HostAction), s.fault = true → s.program = act :: rest →
    (∀ (off : BitVec 8) (w : Word), act = .regWrite off w → off.toNat % 4 = 0 → off ≠ 0x04#8 →
      step s = .next { s with program := rest }) ∧
    (∀ off : BitVec 8, act = .regRead off → off.toNat % 4 = 0 →
      step s = .next { s with program := rest, observed := s.observed ++ [.reg (regValue s off)] }) ∧
    (∀ t : State, step s = .next t → act.isRegister = true → t.mem = s.mem) ∧
    (∀ t : State, step s = .next t → t.fault = false →
      (∃ w : Word, act = .regWrite 0x04#8 w ∧ w.toNat % 2 = 1) ∧
      t = { State.powerUp s.cfg s.mem with program := rest, observed := s.observed })

/-- 10_state R24: a write to `CTRL` with bit 0 set puts every register at its reset value and leaves `MEM` alone, also
when the engine is faulted; with bit 0 clear it does nothing; a read returns 0; and no write to another register takes
effect while the engine is faulted. -/
def Obligations.CtrlResets : Prop :=
  ∀ (s : State) (rest : List HostAction),
    (∀ w : Word, s.program = .regWrite 0x04#8 w :: rest →
      step s = .next (if w.toNat % 2 = 1 then
        { State.powerUp s.cfg s.mem with program := rest, observed := s.observed } else { s with program := rest })) ∧
    (s.program = .regRead 0x04#8 :: rest →
      step s = .next { s with program := rest, observed := s.observed ++ [.reg 0] }) ∧
    (∀ (off : BitVec 8) (w : Word), s.fault = true → off.toNat % 4 = 0 → off ≠ 0x04#8 →
      s.program = .regWrite off w :: rest → step s = .next { s with program := rest })

/-- 10_state R45, for every choice of the parameters and every memory content: `ID` reads its constant and every other
offset reads 0; `NUMC` returns 0; `GET`, `SET`, `PGET` and `PSET` raise `INDEX_OOB`; a soft reset leaves the same
registers and the memory it found. -/
def Obligations.ResetValues : Prop :=
  ∀ (c : Config) (m : Memory) (s : State),
    (s = State.powerUp c m ∨ ∃ u : State, s = u.softReset ∧ u.cfg = c ∧ u.mem = m) →
    s.cfg = c ∧ s.mem = m ∧ regValue s 0x00#8 = 0x52455549#32 ∧
    (∀ off : BitVec 8, off ≠ 0x00#8 → regValue s off = 0) ∧
    s.fault = false ∧ s.noMatch = false ∧ s.cause = 0 ∧
    exec .numc s = .next { s with result := 0, noMatch := false } ∧
    (∀ i : Instr, i = .get ∨ i = .set ∨ i = .pget ∨ i = .pset →
      exec i s = .next { s with fault := true, cause := 5, finfo := 0 })

/-- 10_state R26 to R36, 30_encoding R81: a write to an `RW` register of an engine that is not faulted stores the
implemented bits, so that a read returns them; every other register reads as before, and nothing else changes. -/
def Obligations.WritableRegisters : Prop :=
  ∀ (s : State) (off : BitVec 8) (w : Word) (rest : List HostAction) (size : Nat),
    s.fault = false → s.program = .regWrite off w :: rest →
    (off, size) ∈ [(0x14#8, 2 ^ s.cfg.addrBits), (0x18#8, 2 ^ 29), (0x1C#8, 2 ^ 8), (0x20#8, 2 ^ s.cfg.addrBits),
      (0x24#8, 2 ^ 29), (0x28#8, 2 ^ 8), (0x2C#8, 2 ^ 16), (0x30#8, 2 ^ 16), (0x34#8, 2 ^ 32), (0x38#8, 2 ^ 32),
      (0x3C#8, 2 ^ 32)] →
    ∃ t : State, step s = .next t ∧ (regValue t off).toNat = w.toNat % size ∧
      (∀ off' : BitVec 8, off' ≠ off → regValue t off' = regValue s off') ∧
      t.cfg = s.cfg ∧ t.mem = s.mem ∧ t.program = rest ∧ t.observed = s.observed

/-- 30_encoding R81: writes to the read-only registers and to the reserved offsets are ignored, with no fault; the
write-only registers and the reserved offsets read 0. -/
def Obligations.IgnoredWritesAndZeroReads : Prop :=
  ∀ (s : State) (off : BitVec 8) (rest : List HostAction), off.toNat % 4 = 0 →
    (∀ w : Word, s.program = .regWrite off w :: rest →
      (off ∈ [0x00#8, 0x0C#8, 0x10#8, 0x40#8, 0x44#8] ∨ 0x48 ≤ off.toNat) → step s = .next { s with program := rest }) ∧
    (s.program = .regRead off :: rest → (off = 0x04#8 ∨ off = 0x08#8 ∨ 0x48 ≤ off.toNat) →
      step s = .next { s with program := rest, observed := s.observed ++ [.reg 0] })

/-- 10_state R23, R37 to R40 and Table 10-2: what a read of each read-only register returns; a read changes nothing but
the host's list and what the host has seen. -/
def Obligations.ReadOnlyRegisters : Prop :=
  ∀ (s : State) (off : BitVec 8) (rest : List HostAction) (v : Nat), s.program = .regRead off :: rest →
    (off, v) ∈ [(0x00#8, 0x52455549),
      (0x0C#8, s.cause.toNat * 16 + s.noMatch.toNat * 2 + s.fault.toNat),
      (0x10#8, s.finfo.toNat), (0x40#8, s.colorOut.toNat), (0x44#8, s.result.toNat)] →
    step s = .next { s with program := rest, observed := s.observed ++ [.reg (BitVec.ofNat 32 v)] }

/-- Two of the model's choices: a register transaction whose offset is no multiple of 4 is refused (log 6, for
30_encoding R80); with no host action left a step changes nothing (log 4). -/
def Obligations.RefusedAndIdle : Prop :=
  (∀ (s : State) (off : BitVec 8) (w : Word) (rest : List HostAction), off.toNat % 4 ≠ 0 →
    s.program = .regWrite off w :: rest ∨ s.program = .regRead off :: rest →
    step s = .refused (.unalignedTransaction off)) ∧
  (∀ s : State, s.program = [] → step s = .next s)

/-- 20_memory R67, R69: the host reads and writes a byte of `MEM`, whatever the engine's registers hold; a read returns
the last byte written. Beyond the top of memory the access faults (the model's choice, log 5). -/
def Obligations.HostMemoryAccess : Prop :=
  ∀ (s : State) (a : Word) (rest : List HostAction),
    (∀ v : Byte, s.program = .memWrite a v :: rest → a.toNat < 2 ^ s.cfg.addrBits →
      ∃ m : Memory, step s = .next { s with program := rest, mem := m } ∧
        ∀ b : Nat, m.read b = if b = a.toNat then v else s.mem.read b) ∧
    (s.program = .memRead a :: rest → a.toNat < 2 ^ s.cfg.addrBits →
      step s = .next { s with program := rest, observed := s.observed ++ [.mem (s.mem.read a.toNat)] }) ∧
    (∀ v : Byte, s.program = .memWrite a v :: rest ∨ s.program = .memRead a :: rest →
      2 ^ s.cfg.addrBits ≤ a.toNat → step s = .fault (.noSuchAddress a))

/-! ## Channel scaling and the conversion commands -/

/-- 40_color_conversions R111, R112, R113: `expand` and `compact` as arithmetic, with the exact constants. -/
def Obligations.ScalingFormulas : Prop :=
  (∀ n k : Nat, (n, k) ∈ scaleTable →
    k = 255 / (2 ^ n - 1) ∧ (∀ v : BitVec n, (expand v).toNat = v.toNat * k) ∧
    ∀ (p : Pack1Rule) (v : Byte), (compact p n v).toNat = v.toNat / 2 ^ (8 - n)) ∧
  expand 0#1 = 0#8 ∧ expand 1#1 = 255#8 ∧
  (∀ v : Byte, (compact .nonzero 1 v).toNat = if 0 < v.toNat then 1 else 0) ∧
  (∀ v : Byte, (compact .msb 1 v).toNat = v.toNat / 128)

/-- 40_color_conversions R114: compaction undoes expansion for every width and either `PACK1_RULE`; the converse holds
exactly on the image of `expand`. -/
def Obligations.ScalingRoundTrip : Prop :=
  ∀ (p : Pack1Rule) (n : Nat), 1 ≤ n → n ≤ 8 →
    (∀ v : BitVec n, compact p n (expand v) = v) ∧
    (∀ v : Byte, expand (compact p n v) = v ↔ ∃ x : BitVec n, expand x = v)

/-- 40_color_conversions R120: the truncated average of the three lanes, lane 3 ignored. -/
def Obligations.CvtRgbGs : Prop :=
  decode 0x00000020#32 = .ok .cvtRgbGs ∧
  ∀ s : State,
    let r := s.colorIn.toNat % 256
    let g := s.colorIn.toNat / 2 ^ 8 % 256
    let b := s.colorIn.toNat / 2 ^ 16 % 256
    exec .cvtRgbGs s = .next { s with colorOut := BitVec.ofNat 32 ((r + g + b) / 3), noMatch := false }

/-- 40_color_conversions R121, R122, R125: the value is replicated into red, green and blue; alpha is absent, 255, or
passed through. -/
def Obligations.CvtReplicates : Prop :=
  decode 0x00000021#32 = .ok .cvtGsRgb ∧ decode 0x00000022#32 = .ok .cvtGsRgba ∧
  decode 0x00000025#32 = .ok .cvtGsaRgba ∧
  ∀ s : State,
    let v := s.colorIn.toNat % 256
    let a := s.colorIn.toNat / 2 ^ 24
    let grey := v * 2 ^ 16 + v * 2 ^ 8 + v
    exec .cvtGsRgb s = .next { s with colorOut := BitVec.ofNat 32 grey, noMatch := false } ∧
    exec .cvtGsRgba s = .next { s with colorOut := BitVec.ofNat 32 (255 * 2 ^ 24 + grey), noMatch := false } ∧
    exec .cvtGsaRgba s = .next { s with colorOut := BitVec.ofNat 32 (a * 2 ^ 24 + grey), noMatch := false }

/-- 40_color_conversions R123, R124: alpha is dropped, or kept beside the truncated average. -/
def Obligations.CvtFromRgba : Prop :=
  decode 0x00000023#32 = .ok .cvtRgbaRgb ∧ decode 0x00000024#32 = .ok .cvtRgbaGsa ∧
  ∀ s : State,
    let r := s.colorIn.toNat % 256
    let g := s.colorIn.toNat / 2 ^ 8 % 256
    let b := s.colorIn.toNat / 2 ^ 16 % 256
    let a := s.colorIn.toNat / 2 ^ 24
    exec .cvtRgbaRgb s =
      .next { s with colorOut := BitVec.ofNat 32 (b * 2 ^ 16 + g * 2 ^ 8 + r), noMatch := false } ∧
    exec .cvtRgbaGsa s =
      .next { s with colorOut := BitVec.ofNat 32 (a * 2 ^ 24 + (r + g + b) / 3), noMatch := false }

/-- 40_color_conversions R126, R127: bit 0 becomes 0 or 255; a value becomes 1 bit by `PACK1_RULE`. -/
def Obligations.CvtBlackWhite : Prop :=
  decode 0x00000026#32 = .ok .cvtBwGs ∧ decode 0x00000027#32 = .ok .cvtGsBw ∧
  ∀ s : State,
    exec .cvtBwGs s = .next { s with colorOut := BitVec.ofNat 32 (s.colorIn.toNat % 2 * 255), noMatch := false } ∧
    exec .cvtGsBw s =
      .next { s with colorOut := BitVec.ofNat 32 (packOne s.cfg.pack1 (s.colorIn.setWidth 8)), noMatch := false }

/-! ## The numeric commands -/

/-- 41_format_codecs R182, 42_indexed_codec R195: `NUMC` and `PALNUM` answer the element counts of the buffer and of the
palette, exact; a format code they cannot use faults. No memory, window or other descriptor is looked at. -/
def Obligations.CountCommands : Prop :=
  decode 0x00000001#32 = .ok .numc ∧ decode 0x00000010#32 = .ok .palnum ∧
  ∀ s : State,
    (∀ f : Format, Format.ofCode s.bufFmt = some f →
      s.elements f.bpp < 2 ^ 32 ∧
      exec .numc s = .next { s with result := BitVec.ofNat 32 (s.elements f.bpp), noMatch := false }) ∧
    (Format.ofCode s.bufFmt = none →
      exec .numc s = .next { s with fault := true, cause := 2, finfo := s.bufFmt.setWidth 32 }) ∧
    (∀ f : FixedFormat, Format.ofCode s.palFmt = some (.fixed f) →
      s.entries f.bpp < 2 ^ 32 ∧
      exec .palnum s = .next { s with result := BitVec.ofNat 32 (s.entries f.bpp), noMatch := false }) ∧
    ((∀ f : FixedFormat, Format.ofCode s.palFmt ≠ some (.fixed f)) →
      exec .palnum s = .next { s with fault := true, cause := 2, finfo := s.palFmt.setWidth 32 })

/-- 43_buffer R211: the byte length for `ARG0` elements; a reserved code faults before a length that does not fit. -/
def Obligations.CapbBytes : Prop :=
  decode 0x00000005#32 = .ok .capb ∧
  ∀ s : State,
    (∀ f : Format, Format.ofCode s.bufFmt = some f →
      let r := (s.arg0.toNat * f.bpp + 7) / 8
      (r < 2 ^ 32 → exec .capb s = .next { s with result := BitVec.ofNat 32 r, noMatch := false }) ∧
      (2 ^ 32 ≤ r → exec .capb s = .next { s with fault := true, cause := 4, finfo := s.arg0 })) ∧
    (Format.ofCode s.bufFmt = none →
      exec .capb s = .next { s with fault := true, cause := 2, finfo := s.bufFmt.setWidth 32 })

/-- 43_buffer R213, 41_format_codecs R140: a buffer sized for `n` elements holds them, and holds no more exactly when
the elements have 8 bits or more or fill whole bytes. -/
def Obligations.CapacityHolds : Prop :=
  ∀ (f : Format) (n : Nat),
    n ≤ count (capBytes n f.bpp) f.bpp ∧
    (count (capBytes n f.bpp) f.bpp = n ↔ 8 ≤ f.bpp ∨ n * f.bpp % 8 = 0)

/-- 44_pixel_view R222, R220: the row-major index, exact; `x` is tested before `y`. -/
def Obligations.XlateIndex : Prop :=
  decode 0x00000008#32 = .ok .xlate ∧
  ∀ s : State,
    (s.PointFits → s.pointIndex ≤ 0xFFFF0000 ∧
      exec .xlate s = .next { s with result := BitVec.ofNat 32 s.pointIndex, noMatch := false }) ∧
    (2 ^ 16 ≤ s.arg0.toNat → exec .xlate s = .next { s with fault := true, cause := 4, finfo := s.arg0 }) ∧
    (s.arg0.toNat < 2 ^ 16 → 2 ^ 16 ≤ s.arg1.toNat →
      exec .xlate s = .next { s with fault := true, cause := 4, finfo := s.arg1 })

/-! ## The fixed-depth formats, bit by bit -/

/-- 41_format_codecs R145, R147, R149, R151, R153, R155, R157, R159, R161,
R163: decode of the 1-bit, gray, and gray and alpha formats, the value in the upper bits of a field. -/
def Obligations.DecodeGray : Prop :=
  ∀ (c : Config) (m : Memory) (base i : Nat),
    let rb := fun k => (m.read (base + k)).toNat
    let e1 := rb (i / 8) / 2 ^ (i % 8) % 2
    let e2 := rb (i / 4) / 2 ^ (i % 4 * 2) % 4
    let e4 := rb (i / 2) / 2 ^ nibbleShift c i % 16
    decodeColor c .bw1 m base i = .bw (decide (e1 = 1)) ∧
    decodeColor c .gs1 m base i = .gs (BitVec.ofNat 8 (255 * e1)) ∧
    decodeColor c .gs2 m base i = .gs (BitVec.ofNat 8 (85 * e2)) ∧
    decodeColor c .gs4 m base i = .gs (BitVec.ofNat 8 (17 * e4)) ∧
    decodeColor c .gs8 m base i = .gs (BitVec.ofNat 8 (rb i)) ∧
    decodeColor c .gsa11 m base i = .gsa (BitVec.ofNat 8 (255 * (e2 / 2))) (BitVec.ofNat 8 (255 * (e2 % 2))) ∧
    decodeColor c .gsa22 m base i = .gsa (BitVec.ofNat 8 (85 * (e4 / 4))) (BitVec.ofNat 8 (85 * (e4 % 4))) ∧
    decodeColor c .gsa31 m base i = .gsa (BitVec.ofNat 8 (36 * (e4 / 2))) (BitVec.ofNat 8 (255 * (e4 % 2))) ∧
    decodeColor c .gsa44 m base i = .gsa (BitVec.ofNat 8 (17 * (rb i / 16))) (BitVec.ofNat 8 (17 * (rb i % 16))) ∧
    decodeColor c .gsa71 m base i = .gsa (BitVec.ofNat 8 (2 * (rb i / 2))) (BitVec.ofNat 8 (255 * (rb i % 2)))

/-- 41_format_codecs R165, R167, R169, R171, R173, R175, R177: decode of the RGB and RGBA formats; a 16-bit element is a
number with its upper byte at the lower address, an `RGB444` pair is six nibbles in three bytes. -/
def Obligations.DecodeRgb : Prop :=
  ∀ (c : Config) (m : Memory) (base i : Nat),
    let rb := fun k => (m.read (base + k)).toNat
    let w := rb (2 * i) * 256 + rb (2 * i + 1)
    let o := 3 * (i / 2)
    decodeColor c .rgb332 m base i =
      .rgb (BitVec.ofNat 8 (36 * (rb i / 32))) (BitVec.ofNat 8 (36 * (rb i / 4 % 8))) (BitVec.ofNat 8 (85 * (rb i % 4))) ∧
    (i % 2 = 0 → decodeColor c .rgb444 m base i =
      .rgb (BitVec.ofNat 8 (17 * (rb o / 16))) (BitVec.ofNat 8 (17 * (rb o % 16)))
        (BitVec.ofNat 8 (17 * (rb (o + 1) / 16)))) ∧
    (i % 2 = 1 → decodeColor c .rgb444 m base i =
      .rgb (BitVec.ofNat 8 (17 * (rb (o + 1) % 16))) (BitVec.ofNat 8 (17 * (rb (o + 2) / 16)))
        (BitVec.ofNat 8 (17 * (rb (o + 2) % 16)))) ∧
    decodeColor c .rgb565 m base i =
      .rgb (BitVec.ofNat 8 (8 * (w / 2048))) (BitVec.ofNat 8 (4 * (w / 32 % 64))) (BitVec.ofNat 8 (8 * (w % 32))) ∧
    decodeColor c .rgb888 m base i =
      .rgb (BitVec.ofNat 8 (rb (3 * i))) (BitVec.ofNat 8 (rb (3 * i + 1))) (BitVec.ofNat 8 (rb (3 * i + 2))) ∧
    decodeColor c .rgba4444 m base i =
      .rgba (BitVec.ofNat 8 (17 * (w / 4096))) (BitVec.ofNat 8 (17 * (w / 256 % 16)))
        (BitVec.ofNat 8 (17 * (w / 16 % 16))) (BitVec.ofNat 8 (17 * (w % 16))) ∧
    decodeColor c .rgba5551 m base i =
      .rgba (BitVec.ofNat 8 (8 * (w / 2048))) (BitVec.ofNat 8 (8 * (w / 64 % 32)))
        (BitVec.ofNat 8 (8 * (w / 2 % 32))) (BitVec.ofNat 8 (255 * (w % 2))) ∧
    decodeColor c .rgba8888 m base i =
      .rgba (BitVec.ofNat 8 (rb (4 * i))) (BitVec.ofNat 8 (rb (4 * i + 1)))
        (BitVec.ofNat 8 (rb (4 * i + 2))) (BitVec.ofNat 8 (rb (4 * i + 3)))

/-- 41_format_codecs R146, R148, R150, R152, R154, R156, R158, R160, R162, R164: what each byte of memory reads after an
encode of a 1-bit, gray, or gray and alpha format: the new value at the element's own byte and field, the old one
everywhere else. -/
def Obligations.EncodeGray : Prop :=
  ∀ (c : Config) (m : Memory) (base i : Nat) (bit : Bool) (val al : Byte) (a : Nat),
    let v := val.toNat
    let t := al.toNat
    let v1 := packOne c.pack1 val
    let t1 := packOne c.pack1 al
    (encodeColor c .bw1 m base i (.bw bit)).read a =
      (if a = base + i / 8 then putField (m.read a) (i % 8) 1 bit.toNat else m.read a) ∧
    (encodeColor c .gs1 m base i (.gs val)).read a =
      (if a = base + i / 8 then putField (m.read a) (i % 8) 1 v1 else m.read a) ∧
    (encodeColor c .gs2 m base i (.gs val)).read a =
      (if a = base + i / 4 then putField (m.read a) (i % 4 * 2) 2 (v / 64) else m.read a) ∧
    (encodeColor c .gs4 m base i (.gs val)).read a =
      (if a = base + i / 2 then putField (m.read a) (nibbleShift c i) 4 (v / 16) else m.read a) ∧
    (encodeColor c .gs8 m base i (.gs val)).read a = (if a = base + i then val else m.read a) ∧
    (encodeColor c .gsa11 m base i (.gsa val al)).read a =
      (if a = base + i / 4 then putField (m.read a) (i % 4 * 2) 2 (v1 * 2 + t1) else m.read a) ∧
    (encodeColor c .gsa22 m base i (.gsa val al)).read a =
      (if a = base + i / 2 then putField (m.read a) (nibbleShift c i) 4 (v / 64 * 4 + t / 64) else m.read a) ∧
    (encodeColor c .gsa31 m base i (.gsa val al)).read a =
      (if a = base + i / 2 then putField (m.read a) (nibbleShift c i) 4 (v / 32 * 2 + t1) else m.read a) ∧
    (encodeColor c .gsa44 m base i (.gsa val al)).read a =
      (if a = base + i then BitVec.ofNat 8 (v / 16 * 16 + t / 16) else m.read a) ∧
    (encodeColor c .gsa71 m base i (.gsa val al)).read a =
      (if a = base + i then BitVec.ofNat 8 (v / 2 * 2 + t1) else m.read a)

/-- 41_format_codecs R166, R168, R170, R172: the same for the RGB formats, in their byte order. -/
def Obligations.EncodeRgb : Prop :=
  ∀ (c : Config) (m : Memory) (base i : Nat) (red green blue : Byte) (a : Nat),
    let r := red.toNat
    let g := green.toNat
    let b := blue.toNat
    let w := r / 8 * 2048 + g / 4 * 32 + b / 8
    let o := base + 3 * (i / 2)
    (encodeColor c .rgb332 m base i (.rgb red green blue)).read a =
      (if a = base + i then BitVec.ofNat 8 (r / 32 * 32 + g / 32 * 4 + b / 64) else m.read a) ∧
    (i % 2 = 0 → (encodeColor c .rgb444 m base i (.rgb red green blue)).read a =
      (if a = o then BitVec.ofNat 8 (r / 16 * 16 + g / 16)
       else if a = o + 1 then BitVec.ofNat 8 (b / 16 * 16 + (m.read a).toNat % 16) else m.read a)) ∧
    (i % 2 = 1 → (encodeColor c .rgb444 m base i (.rgb red green blue)).read a =
      (if a = o + 1 then BitVec.ofNat 8 ((m.read a).toNat / 16 * 16 + r / 16)
       else if a = o + 2 then BitVec.ofNat 8 (g / 16 * 16 + b / 16) else m.read a)) ∧
    (encodeColor c .rgb565 m base i (.rgb red green blue)).read a =
      (if a = base + 2 * i then BitVec.ofNat 8 (w / 256)
       else if a = base + 2 * i + 1 then BitVec.ofNat 8 (w % 256) else m.read a) ∧
    (encodeColor c .rgb888 m base i (.rgb red green blue)).read a =
      (if a = base + 3 * i then red else if a = base + 3 * i + 1 then green
       else if a = base + 3 * i + 2 then blue else m.read a)

/-- 41_format_codecs R174, R176, R178: the same for the RGBA formats. -/
def Obligations.EncodeRgba : Prop :=
  ∀ (c : Config) (m : Memory) (base i : Nat) (red green blue al : Byte) (a : Nat),
    let r := red.toNat
    let g := green.toNat
    let b := blue.toNat
    let w := r / 8 * 2048 + g / 8 * 64 + b / 8 * 2 + packOne c.pack1 al
    (encodeColor c .rgba4444 m base i (.rgba red green blue al)).read a =
      (if a = base + 2 * i then BitVec.ofNat 8 (r / 16 * 16 + g / 16)
       else if a = base + 2 * i + 1 then BitVec.ofNat 8 (b / 16 * 16 + al.toNat / 16) else m.read a) ∧
    (encodeColor c .rgba5551 m base i (.rgba red green blue al)).read a =
      (if a = base + 2 * i then BitVec.ofNat 8 (w / 256)
       else if a = base + 2 * i + 1 then BitVec.ofNat 8 (w % 256) else m.read a) ∧
    (encodeColor c .rgba8888 m base i (.rgba red green blue al)).read a =
      (if a = base + 4 * i then red else if a = base + 4 * i + 1 then green
       else if a = base + 4 * i + 2 then blue else if a = base + 4 * i + 3 then al else m.read a)

/-- 41_format_codecs R141, R142, R143, 42_indexed_codec R190: reading and writing the field of an element, for the
widths of the indexed formats: its byte, its position, and every other byte as before. -/
def Obligations.SubByteFields : Prop :=
  ∀ (c : Config) (m : Memory) (base i w sh : Nat) (f : BitVec w) (a : Nat),
    (w, sh) ∈ [(1, i % 8), (2, i % 4 * 2), (4, nibbleShift c i), (8, 0)] →
    (fieldGet c m base i w).toNat = (m.read (base + i / (8 / w))).toNat / 2 ^ sh % 2 ^ w ∧
    (fieldSet c m base i w f).read a =
      (if a = base + i / (8 / w) then putField (m.read a) sh w f.toNat else m.read a)

/-- 41_format_codecs R179 (Table 41-1): an element owns as many bits as its format has; it lies in the window exactly
when its index is below the count; elements that share a byte own disjoint bits, and only elements of fewer than 8 bits
and of `RGB444` share one. -/
def Obligations.FootprintsFit : Prop :=
  ∀ (c : Config) (f : Format) (i : Nat),
    ownedBits (f.footprint c i) = f.bpp ∧
    (∀ len : Nat, i < count len f.bpp ↔ ∀ e ∈ f.footprint c i, e.1 < len) ∧
    (∀ j a b : Nat, i ≠ j → ownsBitAt (f.footprint c i) 0 a b → ¬ ownsBitAt (f.footprint c j) 0 a b) ∧
    (∀ j a : Nat, i ≠ j → touches (f.footprint c i) 0 a → touches (f.footprint c j) 0 a →
      f.bpp < 8 ∨ f = .fixed .rgb444)

/-- 41_format_codecs R144: decode depends on the element's owned bits only; encode changes no other bit, whatever byte
of memory it lies in, and sets the owned bits to a function of the colour alone. -/
def Obligations.OwnedBitsOnly : Prop :=
  ∀ (c : Config) (f : FixedFormat) (m m' : Memory) (base i : Nat) (col : Color), col.type = f.ctype →
    ((∀ a b : Nat, ownsBitAt (footprint c f i) base a b → (m.read a).getLsbD b = (m'.read a).getLsbD b) →
      decodeColor c f m base i = decodeColor c f m' base i) ∧
    (∀ a b : Nat, ¬ ownsBitAt (footprint c f i) base a b →
      ((encodeColor c f m base i col).read a).getLsbD b = (m.read a).getLsbD b) ∧
    (∀ a b : Nat, ownsBitAt (footprint c f i) base a b →
      ((encodeColor c f m base i col).read a).getLsbD b = ((encodeColor c f m' base i col).read a).getLsbD b)

/-- 41_format_codecs R185 (c): encoding what was decoded leaves every byte as it was. -/
def Obligations.EncodeDecodedIsIdentity : Prop :=
  ∀ (c : Config) (f : FixedFormat) (m : Memory) (base i a : Nat),
    (encodeColor c f m base i (decodeColor c f m base i)).read a = m.read a

/-! ## Reading and writing elements -/

/-- 41_format_codecs R183, fixed-depth formats: `GET` of an element of the buffer answers its decoded colour, and
changes nothing else. -/
def Obligations.GetFixed : Prop :=
  ∀ (s : State) (f : FixedFormat), s.OpensFixed f → s.arg0.toNat < s.elements f.bpp →
    exec .get s = .next { s with
      colorOut := (decodeColor s.cfg f s.mem s.bufBase.toNat s.arg0.toNat).toWord, noMatch := false }

/-- 41_format_codecs R183, 42_indexed_codec R193, indexed formats: `GET` answers the palette entry that the element's
field names, and raises `PAL_OOB` with the slot when the palette has none. -/
def Obligations.GetIndexed : Prop :=
  ∀ (s : State) (x : IndexedFormat) (pf : FixedFormat), s.OpensIndexed x pf → s.arg0.toNat < s.elements x.bits →
    let k := (fieldGet s.cfg s.mem s.bufBase.toNat s.arg0.toNat x.bits).toNat
    (k < s.entries pf.bpp → exec .get s = .next { s with colorOut := (s.entry pf k).toWord, noMatch := false }) ∧
    (s.entries pf.bpp ≤ k →
      exec .get s = .next { s with fault := true, cause := 6, finfo := BitVec.ofNat 32 k })

/-- 44_pixel_view R223, R221, fixed-depth formats: `PGET` answers the colour of the element at `x + y * VIEW_W`, with no
clipping to the view. -/
def Obligations.PgetFixed : Prop :=
  ∀ (s : State) (f : FixedFormat), s.OpensFixed f → s.PointFits → s.pointIndex < s.elements f.bpp →
    exec .pget s = .next { s with
      colorOut := (decodeColor s.cfg f s.mem s.bufBase.toNat s.pointIndex).toWord, noMatch := false }

/-- 44_pixel_view R223, 42_indexed_codec R193, indexed formats: `PGET` answers the palette entry that the field of the
element at `x + y * VIEW_W` names, and raises `PAL_OOB` with the slot when the palette has none. -/
def Obligations.PgetIndexed : Prop :=
  ∀ (s : State) (x : IndexedFormat) (pf : FixedFormat), s.OpensIndexed x pf → s.PointFits →
    s.pointIndex < s.elements x.bits →
    let k := (fieldGet s.cfg s.mem s.bufBase.toNat s.pointIndex x.bits).toNat
    (k < s.entries pf.bpp → exec .pget s = .next { s with colorOut := (s.entry pf k).toWord, noMatch := false }) ∧
    (s.entries pf.bpp ≤ k →
      exec .pget s = .next { s with fault := true, cause := 6, finfo := BitVec.ofNat 32 k })

/-- 41_format_codecs R184, fixed-depth formats: `SET` of an element of the buffer stores the encoding of `COLOR_IN` and
clears `NOMATCH`; every bit of memory outside the element's own is as before, and no register changes. -/
def Obligations.SetFixed : Prop :=
  ∀ (s : State) (f : FixedFormat), s.OpensFixed f → s.arg0.toNat < s.elements f.bpp →
    let m := encodeColor s.cfg f s.mem s.bufBase.toNat s.arg0.toNat (Color.fromWord f.ctype s.colorIn)
    exec .set s = .next { s with mem := m, noMatch := false } ∧
    ∀ a b : Nat, ¬ ownsBitAt (footprint s.cfg f s.arg0.toNat) s.bufBase.toNat a b →
      (m.read a).getLsbD b = (s.mem.read a).getLsbD b

/-- 44_pixel_view R224, fixed-depth formats: `PSET` stores the encoding of `COLOR_IN` in the element at
`x + y * VIEW_W`; the rest as for `SET`. -/
def Obligations.PsetFixed : Prop :=
  ∀ (s : State) (f : FixedFormat), s.OpensFixed f → s.PointFits → s.pointIndex < s.elements f.bpp →
    let m := encodeColor s.cfg f s.mem s.bufBase.toNat s.pointIndex (Color.fromWord f.ctype s.colorIn)
    exec .pset s = .next { s with mem := m, noMatch := false } ∧
    ∀ a b : Nat, ¬ ownsBitAt (footprint s.cfg f s.pointIndex) s.bufBase.toNat a b →
      (m.read a).getLsbD b = (s.mem.read a).getLsbD b

/-- 41_format_codecs R184, 42_indexed_codec R194, indexed formats: `SET` stores the lowest palette slot that holds
`COLOR_IN` in the element's field, every byte but that one as before; when no slot holds it the write is dropped and
`NOMATCH` is set. -/
def Obligations.SetIndexed : Prop :=
  ∀ (s : State) (x : IndexedFormat) (pf : FixedFormat), s.OpensIndexed x pf → s.arg0.toNat < s.elements x.bits →
    let col := Color.fromWord pf.ctype s.colorIn
    (∀ k : Nat, s.LowestSlot x pf col k →
      let m := fieldSet s.cfg s.mem s.bufBase.toNat s.arg0.toNat x.bits (BitVec.ofNat x.bits k)
      exec .set s = .next { s with mem := m, noMatch := false } ∧
      (fieldGet s.cfg m s.bufBase.toNat s.arg0.toNat x.bits).toNat = k ∧
      ∀ a : Nat, a ≠ s.bufBase.toNat + s.arg0.toNat / (8 / x.bits) → m.read a = s.mem.read a) ∧
    (s.NoSlot x pf col → exec .set s = .next { s with noMatch := true })

/-- 44_pixel_view R224, 42_indexed_codec R194, indexed formats: `PSET` at the element `x + y * VIEW_W`, as `SET`. -/
def Obligations.PsetIndexed : Prop :=
  ∀ (s : State) (x : IndexedFormat) (pf : FixedFormat), s.OpensIndexed x pf → s.PointFits →
    s.pointIndex < s.elements x.bits →
    let col := Color.fromWord pf.ctype s.colorIn
    (∀ k : Nat, s.LowestSlot x pf col k →
      let m := fieldSet s.cfg s.mem s.bufBase.toNat s.pointIndex x.bits (BitVec.ofNat x.bits k)
      exec .pset s = .next { s with mem := m, noMatch := false } ∧
      (fieldGet s.cfg m s.bufBase.toNat s.pointIndex x.bits).toNat = k ∧
      ∀ a : Nat, a ≠ s.bufBase.toNat + s.pointIndex / (8 / x.bits) → m.read a = s.mem.read a) ∧
    (s.NoSlot x pf col → exec .pset s = .next { s with noMatch := true })

/-- 41_format_codecs R185 (a), (b): a `GET` right after a `SET` of the same element reads back every channel compacted
and expanded again, which is the colour written when the format can express it; at every depth, index, window and
parameter choice. -/
def Obligations.SetThenGet : Prop :=
  ∀ (s : State) (f : FixedFormat), s.OpensFixed f → s.arg0.toNat < s.elements f.bpp →
    let col := Color.fromWord f.ctype s.colorIn
    ∃ t u : State, exec .set s = .next t ∧ exec .get t = .next u ∧
      (Color.fromWord f.ctype u.colorOut).channels = requantize s.cfg.pack1 f.widths col.channels ∧
      (Expressible f col → u.colorOut = col.toWord)

/-- 41_format_codecs R144 (independence): a `SET` leaves the decoded colour of every other element as it was; for an
indexed format, the stored slot of every other element. -/
def Obligations.SetKeepsNeighbours : Prop :=
  (∀ (s t : State) (f : FixedFormat) (j : Nat), s.OpensFixed f → exec .set s = .next t → j ≠ s.arg0.toNat →
    decodeColor s.cfg f t.mem s.bufBase.toNat j = decodeColor s.cfg f s.mem s.bufBase.toNat j) ∧
  (∀ (s t : State) (x : IndexedFormat) (pf : FixedFormat) (j : Nat), s.OpensIndexed x pf → exec .set s = .next t →
    j ≠ s.arg0.toNat →
    fieldGet s.cfg t.mem s.bufBase.toNat j x.bits = fieldGet s.cfg s.mem s.bufBase.toNat j x.bits)

/-- 42_indexed_codec R193, R194: on windows that do not overlap, a `GET` right after a `SET` that found its palette slot
reads back the colour written, exactly. -/
def Obligations.IndexedSetThenGet : Prop :=
  ∀ (s : State) (x : IndexedFormat) (pf : FixedFormat) (k : Nat), s.OpensIndexed x pf →
    s.arg0.toNat < s.elements x.bits → s.LowestSlot x pf (Color.fromWord pf.ctype s.colorIn) k →
    (s.bufBase.toNat + s.bufLen.toNat ≤ s.palBase.toNat ∨ s.palBase.toNat + s.palLen.toNat ≤ s.bufBase.toNat) →
    ∃ t u : State, exec .set s = .next t ∧ exec .get t = .next u ∧
      u.colorOut = (Color.fromWord pf.ctype s.colorIn).toWord ∧ u.noMatch = false

/-! ## The palette commands -/

/-- 42_indexed_codec R196: `PALGET` answers palette entry `ARG0`, or raises `PAL_OOB`, after the format and the window
of the palette. -/
def Obligations.PalgetReads : Prop :=
  decode 0x00000011#32 = .ok .palget ∧
  ∀ s : State,
    (∀ pf : FixedFormat, s.OpensPalette pf → s.arg0.toNat < s.entries pf.bpp →
      exec .palget s = .next { s with colorOut := (s.entry pf s.arg0.toNat).toWord, noMatch := false }) ∧
    (∀ pf : FixedFormat, s.OpensPalette pf → s.entries pf.bpp ≤ s.arg0.toNat →
      exec .palget s = .next { s with fault := true, cause := 6, finfo := s.arg0 }) ∧
    (∀ pf : FixedFormat, Format.ofCode s.palFmt = some (.fixed pf) → ¬ s.PaletteFits →
      exec .palget s = .next { s with fault := true, cause := 3, finfo := 1 }) ∧
    ((∀ pf : FixedFormat, Format.ofCode s.palFmt ≠ some (.fixed pf)) →
      exec .palget s = .next { s with fault := true, cause := 2, finfo := s.palFmt.setWidth 32 })

/-- 42_indexed_codec R197: `PALFIND` answers the lowest slot that holds `COLOR_IN`, or `0xFFFFFFFF` with `NOMATCH`; it
reads neither the buffer window nor `ARG0`; its faults in their order; and the slot is the one a `SET` with the same
registers stores. -/
def Obligations.PalfindScans : Prop :=
  decode 0x00000012#32 = .ok .palfind ∧
  ∀ s : State,
    (∀ (x : IndexedFormat) (pf : FixedFormat), Format.ofCode s.bufFmt = some (.indexed x) → s.OpensPalette pf →
      (∀ k : Nat, s.LowestSlot x pf (Color.fromWord pf.ctype s.colorIn) k →
        exec .palfind s = .next { s with result := BitVec.ofNat 32 k, noMatch := false }) ∧
      (s.NoSlot x pf (Color.fromWord pf.ctype s.colorIn) →
        exec .palfind s = .next { s with result := 0xFFFFFFFF#32, noMatch := true })) ∧
    (∀ (x : IndexedFormat) (pf : FixedFormat), Format.ofCode s.bufFmt = some (.indexed x) →
      Format.ofCode s.palFmt = some (.fixed pf) → ¬ s.PaletteFits →
      exec .palfind s = .next { s with fault := true, cause := 3, finfo := 1 }) ∧
    (∀ x : IndexedFormat, Format.ofCode s.bufFmt = some (.indexed x) →
      (∀ pf : FixedFormat, Format.ofCode s.palFmt ≠ some (.fixed pf)) →
      exec .palfind s = .next { s with fault := true, cause := 2, finfo := s.palFmt.setWidth 32 }) ∧
    ((∀ x : IndexedFormat, Format.ofCode s.bufFmt ≠ some (.indexed x)) →
      exec .palfind s = .next { s with fault := true, cause := 2, finfo := s.bufFmt.setWidth 32 }) ∧
    (∀ (x : IndexedFormat) (pf : FixedFormat) (t : State), s.OpensIndexed x pf → s.arg0.toNat < s.elements x.bits →
      exec .palfind s = .next t → t.noMatch = false →
      ∃ u : State, exec .set s = .next u ∧
        (fieldGet s.cfg u.mem s.bufBase.toNat s.arg0.toNat x.bits).toNat = t.result.toNat)

/-! ## The default fill -/

/-- 43_buffer R212, fixed-depth formats: after `INIT` every element of the buffer decodes to the default colour, and
every bit of memory that no element of the buffer owns is as before. -/
def Obligations.InitFixed : Prop :=
  ∀ (s : State) (f : FixedFormat), s.OpensFixed f →
    ∃ m : Memory, exec .init s = .next { s with mem := m, noMatch := false } ∧
      (∀ i : Nat, i < s.elements f.bpp → decodeColor s.cfg f m s.bufBase.toNat i = defaultColor f.ctype) ∧
      (∀ a b : Nat, (∀ i : Nat, i < s.elements f.bpp → ¬ ownsBitAt (footprint s.cfg f i) s.bufBase.toNat a b) →
        (m.read a).getLsbD b = (s.mem.read a).getLsbD b)

/-- 43_buffer R212, indexed formats, windows that do not overlap: either the default colour has a lowest slot and every
field of the buffer becomes it, or it has none and memory stays as it was, with `NOMATCH` set if there was an element to
write. -/
def Obligations.InitIndexed : Prop :=
  ∀ (s : State) (x : IndexedFormat) (pf : FixedFormat), s.OpensIndexed x pf →
    (s.bufBase.toNat + s.bufLen.toNat ≤ s.palBase.toNat ∨ s.palBase.toNat + s.palLen.toNat ≤ s.bufBase.toNat) →
    (∀ k : Nat, s.LowestSlot x pf (defaultColor pf.ctype) k →
      ∃ m : Memory, exec .init s = .next { s with mem := m, noMatch := false } ∧
        (∀ i : Nat, i < s.elements x.bits → (fieldGet s.cfg m s.bufBase.toNat i x.bits).toNat = k) ∧
        (∀ a : Nat, a < s.bufBase.toNat ∨ s.bufBase.toNat + s.bufLen.toNat ≤ a → m.read a = s.mem.read a)) ∧
    (s.NoSlot x pf (defaultColor pf.ctype) →
      exec .init s = .next { s with noMatch := decide (0 < s.elements x.bits) })

/-- 43_buffer R212: `INIT` is exactly the `SET`s of the default colour, element by element in ascending order, each on
the memory the one before it left; `NOMATCH` is set when one of them sets it. For every format, also when the windows
overlap. -/
def Obligations.InitIsAscendingSets : Prop :=
  ∀ (s : State) (bpp : Nat) (t : ColorType),
    ((∃ f : FixedFormat, s.OpensFixed f ∧ bpp = f.bpp ∧ t = f.ctype) ∨
     (∃ (x : IndexedFormat) (pf : FixedFormat), s.OpensIndexed x pf ∧ bpp = x.bits ∧ t = pf.ctype)) →
    ∃ (ms : Nat → Memory) (dropped : Nat → Bool), ms 0 = s.mem ∧
      (∀ i : Nat, i < s.elements bpp →
        let u := { s with arg0 := BitVec.ofNat 32 i, colorIn := (defaultColor t).toWord }
        exec .set { u with mem := ms i } = .next { u with mem := ms (i + 1), noMatch := dropped i }) ∧
      exec .init s = .next { s with
        mem := ms (s.elements bpp), noMatch := (List.range (s.elements bpp)).any dropped }

/-! ## The whole machine -/

/-- 60_exceptions R253, R241: the tests a command makes stand in ascending order of cause code; the first that fires is
the one fault the command records, with its value of Table 60-1; when none fires the command completes and leaves the
fault record alone. Together: every command answers a next state. -/
def Obligations.FirstFaultDecides : Prop :=
  ∀ (i : Instr) (s : State),
    List.Pairwise (fun a b : FaultTest => a.code.toNat ≤ b.code.toNat) (faultTests i s) ∧
    (∀ t : FaultTest, firstFault i s = some t →
      exec i s = .next { s with fault := true, cause := t.code, finfo := t.info }) ∧
    (firstFault i s = none →
      ∃ u : State, exec i s = .next u ∧ u.fault = s.fault ∧ u.cause = s.cause ∧ u.finfo = s.finfo)

/-- 60_exceptions R246, R256: a command that raises a fault changes the three fields of the fault record and nothing
else, and the cause is one of the five a command's own tests raise. -/
def Obligations.FaultsArePrecise : Prop :=
  ∀ (i : Instr) (s t : State), s.fault = false → exec i s = .next t → t.fault = true →
    t = { s with fault := true, cause := t.cause, finfo := t.finfo } ∧ 2 ≤ t.cause.toNat ∧ t.cause.toNat ≤ 6

/-- 10_state R22, R37, R38, 20_memory R60: no command writes an `RW` register; `COLOR_OUT`, `RESULT` and `MEM` change
only under the commands that produce them; the parameters and the host are out of a command's reach. -/
def Obligations.CommandFrame : Prop :=
  ∀ (i : Instr) (s t : State), exec i s = .next t →
    (t.cfg = s.cfg ∧ t.program = s.program ∧ t.observed = s.observed ∧ t.bufBase = s.bufBase ∧ t.bufLen = s.bufLen ∧
      t.bufFmt = s.bufFmt ∧ t.palBase = s.palBase ∧ t.palLen = s.palLen ∧ t.palFmt = s.palFmt ∧ t.viewW = s.viewW ∧
      t.viewH = s.viewH ∧ t.arg0 = s.arg0 ∧ t.arg1 = s.arg1 ∧ t.colorIn = s.colorIn) ∧
    (i ∈ [Instr.numc, .set, .init, .capb, .xlate, .pset, .palnum, .palfind] → t.colorOut = s.colorOut) ∧
    (i ∉ [Instr.numc, .capb, .xlate, .palnum, .palfind] → t.result = s.result) ∧
    (i ∉ [Instr.set, .init, .pset] → t.mem = s.mem)

/-- 10_state R41: a command that completes writes `NOMATCH`; it is 0 unless a reverse palette scan of that command
found nothing, so it is 0 under every command but `SET`, `PSET`, `INIT` on an indexed buffer and `PALFIND`. A faulting
command leaves it. -/
def Obligations.NoMatchRewritten : Prop :=
  ∀ (i : Instr) (s t : State), exec i s = .next t →
    (firstFault i s ≠ none → t.noMatch = s.noMatch) ∧
    (firstFault i s = none → i ∉ [Instr.set, .pset, .init, .palfind] → t.noMatch = false) ∧
    (firstFault i s = none → i ≠ .palfind → codeIndexed s.bufFmt = false → t.noMatch = false)

/-- 20_memory R63: a command changes memory only inside the buffer window, at addresses that exist. -/
def Obligations.WritesStayInWindow : Prop :=
  ∀ (i : Instr) (s t : State) (a : Nat), exec i s = .next t → t.mem.read a ≠ s.mem.read a →
    s.bufBase.toNat ≤ a ∧ a < s.bufBase.toNat + s.bufLen.toNat ∧ a < 2 ^ s.cfg.addrBits

/-- 20_memory R60, R63: a command reads memory only inside the two windows. Two states that differ only in bytes outside
both windows answer the same in every register, and the same bytes inside the windows; and the twelve commands that
touch no memory answer the same on every memory. -/
def Obligations.ReadsStayInWindows : Prop :=
  (∀ (i : Instr) (s t : State) (m : Memory),
    (∀ a : Nat, ((s.bufBase.toNat ≤ a ∧ a < s.bufBase.toNat + s.bufLen.toNat) ∨
        (s.palBase.toNat ≤ a ∧ a < s.palBase.toNat + s.palLen.toNat)) → m.read a = s.mem.read a) →
    exec i s = .next t →
    ∃ m' : Memory, exec i { s with mem := m } = .next { t with mem := m' } ∧
      ∀ a : Nat, ((s.bufBase.toNat ≤ a ∧ a < s.bufBase.toNat + s.bufLen.toNat) ∨
        (s.palBase.toNat ≤ a ∧ a < s.palBase.toNat + s.palLen.toNat)) → m'.read a = t.mem.read a) ∧
  (∀ (i : Instr) (s t : State) (m : Memory),
    i ∈ [Instr.numc, .capb, .xlate, .palnum, .cvtRgbGs, .cvtGsRgb, .cvtGsRgba, .cvtRgbaRgb, .cvtRgbaGsa, .cvtGsaRgba,
      .cvtBwGs, .cvtGsBw] →
    exec i s = .next t → exec i { s with mem := m } = .next { t with mem := m })

/-- 44_pixel_view R225: no command reads `VIEW_H`. -/
def Obligations.ViewHeightNeverRead : Prop :=
  ∀ (i : Instr) (s t : State) (h : BitVec 16),
    exec i s = .next t → exec i { s with viewH := h } = .next { t with viewH := h }

/-- 60_exceptions R249: on a fixed-depth buffer `GET`, `SET`, `INIT`, `PGET` and `PSET` never read the palette
registers; garbage there is harmless. -/
def Obligations.PaletteUnreadWhenFixed : Prop :=
  ∀ (i : Instr) (s t : State) (f : FixedFormat) (base : Word) (len : BitVec 29) (fmt : BitVec 8),
    i ∈ [Instr.get, .set, .init, .pget, .pset] → Format.ofCode s.bufFmt = some (.fixed f) → exec i s = .next t →
    exec i { s with palBase := base, palLen := len, palFmt := fmt } =
      .next { t with palBase := base, palLen := len, palFmt := fmt }

/-- Every step keeps the invariant (10_state R26, R29, R39, R40, R42; 60_exceptions R241): memory canonical and inside
the address space, base registers inside it, the fault record empty while `FAULT` is 0 and one of the six causes while
it is 1. -/
def Obligations.StepKeepsInvariant : Prop :=
  ∀ s t : State, s.Inv → step s = .next t → t.Inv

/-- The invariant holds after a hardware reset, for every parameter choice and every memory that is canonical and inside
the address space; in particular of `State.reset`. -/
def Obligations.ResetHasInvariant : Prop :=
  State.reset.Inv ∧
  ∀ (c : Config) (m : Memory), m.wf = true → m.below c.memSize = true → (State.powerUp c m).Inv

/-! ## Colour words -/

/-- 30_encoding R93 with Table 30-4, and the ignored bits of R94. The colour word as arithmetic: which bits each type
reads, where each channel stands in the word that is produced, and the defaults; reading and producing are inverse on
the listed bits. On the machine: the bits of `COLOR_IN` outside the lanes of the operand's type (all of them, for a
command that takes no colour) change nothing a command does; and a command that produces a colour leaves a canonical
word in `COLOR_OUT`. -/
def Obligations.ColorWordLanes : Prop :=
  (∀ w : Word,
    let l0 := BitVec.ofNat 8 (w.toNat % 256)
    let l1 := BitVec.ofNat 8 (w.toNat / 2 ^ 8 % 256)
    let l2 := BitVec.ofNat 8 (w.toNat / 2 ^ 16 % 256)
    let l3 := BitVec.ofNat 8 (w.toNat / 2 ^ 24)
    Color.fromWord .bw w = .bw (decide (w.toNat % 2 = 1)) ∧
    Color.fromWord .gs w = .gs l0 ∧
    Color.fromWord .gsa w = .gsa l0 l3 ∧
    Color.fromWord .rgb w = .rgb l0 l1 l2 ∧
    Color.fromWord .rgba w = .rgba l0 l1 l2 l3) ∧
  (∀ (bit : Bool) (v a r g b : Byte),
    (Color.bw bit).toWord.toNat = bit.toNat ∧
    (Color.gs v).toWord.toNat = v.toNat ∧
    (Color.gsa v a).toWord.toNat = a.toNat * 2 ^ 24 + v.toNat ∧
    (Color.rgb r g b).toWord.toNat = b.toNat * 2 ^ 16 + g.toNat * 2 ^ 8 + r.toNat ∧
    (Color.rgba r g b a).toWord.toNat = a.toNat * 2 ^ 24 + b.toNat * 2 ^ 16 + g.toNat * 2 ^ 8 + r.toNat) ∧
  (∀ (t : ColorType) (w : Word), (Color.fromWord t w).toWord = w &&& laneBits t) ∧
  ([ColorType.bw, .gs, .gsa, .rgb, .rgba].map fun t => (defaultColor t, (defaultColor t).toWord)) =
    [(.bw false, 0x00000000#32), (.gs 0, 0x00000000#32), (.gsa 0 255, 0xFF000000#32), (.rgb 0 0 0, 0x00000000#32),
      (.rgba 0 0 0 255, 0xFF000000#32)] ∧
  (∀ (i : Instr) (s t : State) (w : Word),
    (∀ ty : ColorType, operandType i s = some ty → w &&& laneBits ty = s.colorIn &&& laneBits ty) →
    exec i s = .next t → exec i { s with colorIn := w } = .next { t with colorIn := w }) ∧
  (∀ (i : Instr) (s t : State) (ty : ColorType), resultType i s = some ty →
    exec i s = .next t → t.fault = false → t.colorOut &&& laneBits ty = t.colorOut)
end

