-- ==== Sys2Proof/Laws/Color.lean ====
section
/-! SUPPORT. Channel scaling and colour words. -/

namespace Sys2Proof.Machine

/-! ## Bit fields -/

/-- Two fields side by side, as a number. -/
theorem join_toNat {w m n : Nat} (h : m + n ≤ w) (hi : BitVec m) (lo : BitVec n) :
    (join hi lo : BitVec w).toNat = hi.toNat * 2 ^ n + lo.toNat := by
  have hlo := lo.isLt
  have hhi := hi.isLt
  have hw : 2 ^ m * 2 ^ n ≤ 2 ^ w := by rw [← pow_add]; exact Nat.pow_le_pow_right (by omega) h
  have hn : 2 ^ n ≤ 2 ^ w := Nat.pow_le_pow_right (by omega) (by omega)
  have hm : 2 ^ m ≤ 2 ^ w := Nat.pow_le_pow_right (by omega) (by omega)
  have hs : hi.toNat * 2 ^ n < 2 ^ w := lt_of_lt_of_le (Nat.mul_lt_mul_of_pos_right hhi (by positivity)) hw
  simp only [join, BitVec.toNat_or, BitVec.toNat_shiftLeft, BitVec.toNat_setWidth]
  rw [Nat.mod_eq_of_lt (by omega : hi.toNat < 2 ^ w), Nat.mod_eq_of_lt (by omega : lo.toNat < 2 ^ w),
    Nat.shiftLeft_eq, Nat.mod_eq_of_lt hs, ← Nat.shiftLeft_eq, Nat.shiftLeft_add_eq_or_of_lt hlo]

/-! ## Channel scaling (40_color_conversions R111 to R114) -/

@[simp] theorem expand_one (v : BitVec 1) : expand v = if v = 0 then 0 else 255 := rfl

@[simp] theorem expand_two (v : BitVec 2) : expand v = BitVec.ofNat 8 (v.toNat * 85) := rfl

@[simp] theorem expand_three (v : BitVec 3) : expand v = BitVec.ofNat 8 (v.toNat * 36) := rfl

@[simp] theorem expand_four (v : BitVec 4) : expand v = BitVec.ofNat 8 (v.toNat * 17) := rfl

@[simp] theorem expand_five (v : BitVec 5) : expand v = BitVec.ofNat 8 (v.toNat * 8) := rfl

@[simp] theorem expand_six (v : BitVec 6) : expand v = BitVec.ofNat 8 (v.toNat * 4) := rfl

@[simp] theorem expand_seven (v : BitVec 7) : expand v = BitVec.ofNat 8 (v.toNat * 2) := rfl

@[simp] theorem expand_eight (v : BitVec 8) : expand v = v := by
  simp [expand]

/-- The value of an expanded channel never leaves 8 bits, for the widths formats use. -/
theorem expand_toNat {n : Nat} (hn : 2 ≤ n) (hn' : n ≤ 8) (v : BitVec n) :
    (expand v).toNat = v.toNat * (255 / (2 ^ n - 1)) := by
  have hv := v.isLt
  have : n = 2 ∨ n = 3 ∨ n = 4 ∨ n = 5 ∨ n = 6 ∨ n = 7 ∨ n = 8 := by omega
  rcases this with rfl | rfl | rfl | rfl | rfl | rfl | rfl <;>
    simp only [expand] <;> norm_num at hv ⊢ <;> omega

/-- Above 1 bit, compaction keeps the top bits. -/
theorem compact_toNat (p : Pack1Rule) {n : Nat} (hn : 2 ≤ n) (hn' : n ≤ 8) (v : Byte) :
    (compact p n v).toNat = v.toNat / 2 ^ (8 - n) := by
  have hv := v.isLt
  have : n = 2 ∨ n = 3 ∨ n = 4 ∨ n = 5 ∨ n = 6 ∨ n = 7 ∨ n = 8 := by omega
  rcases this with rfl | rfl | rfl | rfl | rfl | rfl | rfl <;>
    simp [compact, Nat.shiftRight_eq_div_pow] <;> omega

/-! ## Colour words (30_encoding R93, R94) -/

@[simp] theorem colorWord_toNat (l3 l2 l1 l0 : Byte) :
    (colorWord l3 l2 l1 l0).toNat = l3.toNat * 2 ^ 24 + l2.toNat * 2 ^ 16 + l1.toNat * 2 ^ 8 + l0.toNat := by
  simp only [colorWord, join_toNat (w := 32) (by omega : 24 + 8 ≤ 32), join_toNat (w := 24) (by omega : 16 + 8 ≤ 24),
    join_toNat (w := 16) (by omega : 8 + 8 ≤ 16)]
  omega

theorem lane_toNat (k : Nat) (w : Word) : (lane k w).toNat = w.toNat / 2 ^ (8 * k) % 256 := by
  simp [lane, Nat.shiftRight_eq_div_pow]

/-- A colour word is canonical: reading it back in its own type gives the colour. -/
@[simp] theorem Color.fromWord_toWord (c : Color) : Color.fromWord c.type c.toWord = c := by
  cases c with
  | bw bit => cases bit <;> rfl
  | gs v =>
    have := v.isLt
    simp only [Color.type, Color.fromWord, Color.toWord, Color.gs.injEq, BitVec.toNat_eq, lane_toNat, colorWord_toNat]
    simp; omega
  | gsa v a =>
    have := v.isLt
    have := a.isLt
    simp only [Color.type, Color.fromWord, Color.toWord, Color.gsa.injEq, BitVec.toNat_eq, lane_toNat, colorWord_toNat]
    simp; omega
  | rgb r g b =>
    have := r.isLt
    have := g.isLt
    have := b.isLt
    simp only [Color.type, Color.fromWord, Color.toWord, Color.rgb.injEq, BitVec.toNat_eq, lane_toNat, colorWord_toNat]
    simp; omega
  | rgba r g b a =>
    have := r.isLt
    have := g.isLt
    have := b.isLt
    have := a.isLt
    simp only [Color.type, Color.fromWord, Color.toWord, Color.rgba.injEq, BitVec.toNat_eq, lane_toNat,
      colorWord_toNat]
    simp; omega

@[simp] theorem Color.type_fromWord (t : ColorType) (w : Word) : (Color.fromWord t w).type = t := by
  cases t <;> rfl

@[simp] theorem type_defaultColor (t : ColorType) : (defaultColor t).type = t := by cases t <;> rfl

end Sys2Proof.Machine
end

