-- ==== Sys2Proof/Laws/Memory.lean ====
section
/-! SUPPORT. What the memory operations do: read after write, the canonical form, the bound on addresses. -/

namespace Sys2Proof.Machine

/-! ## Reading -/

@[simp] theorem Memory.read_nil (a : Nat) : Memory.read [] a = memFill := rfl

theorem Memory.read_cons (b : Nat) (v : Byte) (m : Memory) (a : Nat) :
    Memory.read ((b, v) :: m) a = if b = a then v else Memory.read m a := rfl

theorem Memory.read_without_same (m : Memory) (a : Nat) : (m.without a).read a = memFill := by
  induction m with
  | nil => rfl
  | cons c m ih =>
    obtain ⟨b, v⟩ := c
    by_cases h : b = a
    · simpa [Memory.without, h] using ih
    · simpa [Memory.without, h, Memory.read_cons] using ih

theorem Memory.read_without_other (m : Memory) {a b : Nat} (h : b ≠ a) : (m.without a).read b = m.read b := by
  induction m with
  | nil => rfl
  | cons c m ih =>
    obtain ⟨d, v⟩ := c
    by_cases hd : d = a
    · have : d ≠ b := fun e => h (e ▸ hd)
      simpa [Memory.without, hd, Memory.read_cons, Ne.symm h] using ih
    · by_cases hb : d = b
      · simp [Memory.without, hb, h, Memory.read_cons]
      · simpa [Memory.without, hd, hb, Memory.read_cons] using ih

theorem Memory.read_place_same (m : Memory) (a : Nat) (v : Byte) (h : m.all fun c => c.1 != a) :
    (m.place a v).read a = v := by
  induction m with
  | nil => simp [Memory.place, Memory.read_cons]
  | cons c m ih =>
    obtain ⟨d, u⟩ := c
    simp only [List.all_cons, Bool.and_eq_true, bne_iff_ne] at h
    by_cases hd : a < d
    · simp [Memory.place, hd, Memory.read_cons]
    · simp [Memory.place, hd, Memory.read_cons, h.1, ih h.2]

theorem Memory.read_place_other (m : Memory) {a b : Nat} (v : Byte) (h : b ≠ a) :
    (m.place a v).read b = m.read b := by
  induction m with
  | nil => simp [Memory.place, Memory.read_cons, Ne.symm h]
  | cons c m ih =>
    obtain ⟨d, u⟩ := c
    by_cases hd : a < d
    · simp [Memory.place, hd, Memory.read_cons, Ne.symm h]
    · simp [Memory.place, hd, Memory.read_cons, ih]

theorem Memory.without_all_ne (m : Memory) (a : Nat) : (m.without a).all fun c => c.1 != a := by
  simp [Memory.without]

/-- A read gives the byte last written there (20_memory R67). -/
@[simp] theorem Memory.read_write_same (m : Memory) (a : Nat) (v : Byte) : (m.write a v).read a = v := by
  unfold Memory.write
  split
  · next h => rw [Memory.read_without_same, h]
  · exact Memory.read_place_same _ _ _ (Memory.without_all_ne m a)

/-- A write leaves every other address alone. -/
theorem Memory.read_write_other (m : Memory) {a b : Nat} (v : Byte) (h : b ≠ a) :
    (m.write a v).read b = m.read b := by
  unfold Memory.write
  split
  · exact Memory.read_without_other m h
  · rw [Memory.read_place_other _ _ h, Memory.read_without_other m h]

/-- Reading after a write, in one equation. -/
theorem Memory.read_write (m : Memory) (a b : Nat) (v : Byte) :
    (m.write a v).read b = if b = a then v else m.read b := by
  split
  · next h => rw [h, Memory.read_write_same]
  · next h => exact Memory.read_write_other m v h

/-! ## The canonical form -/

@[simp] theorem Memory.wf_nil : Memory.wf [] = true := rfl

theorem Memory.wf_cons (a : Nat) (v : Byte) (m : Memory) :
    Memory.wf ((a, v) :: m) = true ↔ v ≠ memFill ∧ (∀ c ∈ m, a < c.1) ∧ m.wf = true := by
  simp [Memory.wf, and_assoc]

theorem Memory.mem_place {m : Memory} {a : Nat} {v : Byte} {c : Host.Cell} (h : c ∈ m.place a v) :
    c = (a, v) ∨ c ∈ m := by
  induction m with
  | nil => simpa [Memory.place] using h
  | cons d m ih =>
    obtain ⟨b, u⟩ := d
    by_cases hb : a < b
    · simp only [Memory.place, hb, if_true, List.mem_cons] at h
      simpa using h
    · simp only [Memory.place, hb, if_false, List.mem_cons] at h
      rcases h with h | h
      · simp [h]
      · rcases ih h with h | h <;> simp [h]

theorem Memory.mem_without {m : Memory} {a : Nat} {c : Host.Cell} (h : c ∈ m.without a) : c ∈ m ∧ c.1 ≠ a := by
  simpa [Memory.without] using h

theorem Memory.wf_without {m : Memory} (a : Nat) (h : m.wf = true) : (m.without a).wf = true := by
  induction m with
  | nil => rfl
  | cons c m ih =>
    obtain ⟨b, v⟩ := c
    rw [Memory.wf_cons] at h
    have hm := ih h.2.2
    by_cases hb : b = a
    · simpa [Memory.without, hb] using hm
    · have : Memory.without ((b, v) :: m) a = (b, v) :: Memory.without m a := by simp [Memory.without, hb]
      rw [this, Memory.wf_cons]
      exact ⟨h.1, fun c hc => h.2.1 c (Memory.mem_without hc).1, hm⟩

theorem Memory.wf_place {m : Memory} {a : Nat} {v : Byte} (hv : v ≠ memFill) (ha : ∀ c ∈ m, c.1 ≠ a)
    (h : m.wf = true) : (m.place a v).wf = true := by
  induction m with
  | nil => simp [Memory.place, Memory.wf_cons, hv]
  | cons c m ih =>
    obtain ⟨b, u⟩ := c
    have h' := (Memory.wf_cons b u m).1 h
    by_cases hb : a < b
    · simp only [Memory.place, hb, if_true]
      rw [Memory.wf_cons]
      refine ⟨hv, fun c hc => ?_, h⟩
      rcases List.mem_cons.1 hc with rfl | hc
      · exact hb
      · exact lt_trans hb (h'.2.1 c hc)
    · simp only [Memory.place, hb, if_false]
      rw [Memory.wf_cons]
      have hba : b ≠ a := ha (b, u) (by simp)
      refine ⟨h'.1, fun c hc => ?_, ih (fun c hc => ha c (by simp [hc])) h'.2.2⟩
      rcases Memory.mem_place hc with rfl | hc
      · exact lt_of_le_of_ne (not_lt.1 hb) hba
      · exact h'.2.1 c hc

/-- Every memory operation keeps the canonical form: the one that writes does. -/
theorem Memory.wf_write {m : Memory} (a : Nat) (v : Byte) (h : m.wf = true) : (m.write a v).wf = true := by
  unfold Memory.write
  split
  · exact Memory.wf_without a h
  · next hv => exact Memory.wf_place hv (fun c hc => (Memory.mem_without hc).2) (Memory.wf_without a h)

theorem Memory.mem_write {m : Memory} {a : Nat} {v : Byte} {c : Host.Cell} (h : c ∈ m.write a v) :
    c = (a, v) ∨ c ∈ m := by
  unfold Memory.write at h
  split at h
  · exact Or.inr (Memory.mem_without h).1
  · rcases Memory.mem_place h with h | h
    · exact Or.inl h
    · exact Or.inr (Memory.mem_without h).1

theorem Memory.below_iff (m : Memory) (n : Nat) : m.below n = true ↔ ∀ c ∈ m, c.1 < n := by
  simp [Memory.below]

/-- A write below the bound keeps every listed address below it. -/
theorem Memory.below_write {m : Memory} {n a : Nat} (v : Byte) (ha : a < n) (h : m.below n = true) :
    (m.write a v).below n = true := by
  rw [Memory.below_iff] at h ⊢
  intro c hc
  rcases Memory.mem_write hc with rfl | hc
  · exact ha
  · exact h c hc

/-! ## Equal contents are equal data -/

theorem Memory.read_of_all_gt {m : Memory} {a : Nat} (h : ∀ c ∈ m, a < c.1) : m.read a = memFill := by
  induction m with
  | nil => rfl
  | cons c m ih =>
    obtain ⟨b, v⟩ := c
    have hb : a < b := h (b, v) (by simp)
    rw [Memory.read_cons, if_neg (Nat.ne_of_gt hb)]
    exact ih fun c hc => h c (by simp [hc])

/-- Two canonical memories that read the same everywhere are the same list. -/
theorem Memory.ext_of_wf {m m' : Memory} (h : m.wf = true) (h' : m'.wf = true)
    (hr : ∀ a, m.read a = m'.read a) : m = m' := by
  induction m generalizing m' with
  | nil =>
    cases m' with
    | nil => rfl
    | cons c m' =>
      obtain ⟨b, v⟩ := c
      have hv := ((Memory.wf_cons b v m').1 h').1
      have := hr b
      simp [Memory.read_cons] at this
      exact absurd this.symm hv
  | cons c m ih =>
    obtain ⟨a, u⟩ := c
    have hm := (Memory.wf_cons a u m).1 h
    cases m' with
    | nil =>
      have := hr a
      simp [Memory.read_cons] at this
      exact absurd this hm.1
    | cons c' m' =>
      obtain ⟨b, v⟩ := c'
      have hm' := (Memory.wf_cons b v m').1 h'
      have hab : a = b := by
        rcases Nat.lt_trichotomy a b with hlt | he | hlt
        · have h1 := hr a
          rw [Memory.read_cons, if_pos rfl, Memory.read_cons, if_neg (Nat.ne_of_gt hlt),
            Memory.read_of_all_gt fun c hc => lt_trans hlt (hm'.2.1 c hc)] at h1
          exact absurd h1 hm.1
        · exact he
        · have h1 := hr b
          rw [Memory.read_cons b, if_pos rfl, Memory.read_cons, if_neg (Nat.ne_of_gt hlt),
            Memory.read_of_all_gt fun c hc => lt_trans hlt (hm.2.1 c hc)] at h1
          exact absurd h1.symm hm'.1
      subst hab
      have huv : u = v := by simpa [Memory.read_cons] using hr a
      subst huv
      have : m = m' := by
        refine ih hm.2.2 hm'.2.2 fun d => ?_
        by_cases hd : a = d
        · subst hd
          rw [Memory.read_of_all_gt hm.2.1, Memory.read_of_all_gt hm'.2.1]
        · have := hr d
          simpa [Memory.read_cons, hd] using this
      rw [this]

end Sys2Proof.Machine
end

