-- ==== Sys2Proof/Laws/Codec.lean ====
section
/-! SUPPORT. Sub-byte fields, the type of a decoded colour, and what the palette scan answers. -/

namespace Sys2Proof.Machine

/-! ## Sub-byte fields (41_format_codecs R141 to R143) -/

/-- The widths of a field: those for which 41_format_codecs R141 defines it. -/
abbrev FieldWidth (w : Nat) : Prop := w = 1 ∨ w = 2 ∨ w = 4 ∨ w = 8

theorem IndexedFormat.fieldWidth (x : IndexedFormat) : FieldWidth x.bits := by cases x <;> decide

/-- A field lies inside its byte. -/
theorem pos_add_le (c : Config) (i : Nat) {w : Nat} (h : FieldWidth w) : pos c i w + w ≤ 8 := by
  rcases h with rfl | rfl | rfl | rfl
  · simp only [pos]; omega
  · simp only [pos]; omega
  · simp only [pos]; cases c.nibbles <;> simp only <;> omega
  · simp [pos]

/-- Two elements with the same byte and the same field position are one element. -/
theorem pos_injective (c : Config) {i j w : Nat} (h : FieldWidth w) (hb : i / (8 / w) = j / (8 / w))
    (hp : pos c i w = pos c j w) : i = j := by
  rcases h with rfl | rfl | rfl | rfl
  · simp only [pos] at hp; omega
  · simp only [pos] at hp; omega
  · simp only [pos] at hp
    cases hc : c.nibbles <;> simp only [hc] at hp <;> omega
  · simpa using hb

/-- Different fields of one byte do not overlap. -/
theorem pos_disjoint (c : Config) {i j w : Nat} (h : FieldWidth w) (hb : i / (8 / w) = j / (8 / w)) (hij : i ≠ j) :
    pos c i w + w ≤ pos c j w ∨ pos c j w + w ≤ pos c i w := by
  rcases h with rfl | rfl | rfl | rfl
  · simp only [pos]; omega
  · simp only [pos]; omega
  · simp only [pos]
    cases hc : c.nibbles <;> simp only <;> omega
  · exact absurd (by simpa using hb) hij

theorem getLsbD_fieldGet (c : Config) (m : Memory) (base i w j : Nat) :
    (fieldGet c m base i w).getLsbD j =
      (decide (j < w) && (m.read (base + i / (8 / w))).getLsbD (pos c i w + j)) := by
  simp [fieldGet]

/-- Mask-and-or, bit by bit: the field's bits are the new ones, every other bit is the old one. -/
theorem getLsbD_replaceField (old : Byte) {sh w : Nat} (h : sh + w ≤ 8) (f : BitVec w) {j : Nat} (hj : j < 8) :
    (replaceField old sh w f).getLsbD j =
      if sh ≤ j ∧ j < sh + w then f.getLsbD (j - sh) else old.getLsbD j := by
  have hj' : j - sh < 8 := by omega
  simp only [replaceField, BitVec.getLsbD_or, BitVec.getLsbD_and, BitVec.getLsbD_not, BitVec.getLsbD_shiftLeft,
    BitVec.getLsbD_ofNat, BitVec.getLsbD_setWidth, Nat.testBit_two_pow_sub_one, hj, hj', decide_true, Bool.true_and]
  by_cases h1 : sh ≤ j
  · by_cases h2 : j < sh + w
    · have h3 : j - sh < w := by omega
      simp [h1, h2, h3, Nat.not_lt.2 h1]
    · have h3 : ¬ j - sh < w := by omega
      have h4 : f.getLsbD (j - sh) = false := BitVec.getLsbD_of_ge _ _ (by omega)
      simp [h2, h3, h4]
  · simp [h1, Nat.lt_of_not_le h1]

/-- Replacing a whole byte. -/
theorem replaceField_eight (old : Byte) (f : BitVec 8) : replaceField old 0 8 f = f := by
  apply BitVec.eq_of_getLsbD_eq
  intro j hj
  rw [getLsbD_replaceField old (by omega) f hj]
  simp [hj]

/-- `field_set` is one write of one byte, whatever the width. -/
theorem fieldSet_eq (c : Config) (m : Memory) (base i : Nat) {w : Nat} (h : FieldWidth w) (f : BitVec w) :
    fieldSet c m base i w f =
      m.write (base + i / (8 / w)) (replaceField (m.read (base + i / (8 / w))) (pos c i w) w f) := by
  rcases h with rfl | rfl | rfl | rfl
  · rfl
  · rfl
  · rfl
  · simp [fieldSet, pos, replaceField_eight]

/-- `field_set` leaves every byte but the element's alone. -/
theorem read_fieldSet_other (c : Config) (m : Memory) (base i : Nat) {w : Nat} (h : FieldWidth w) (f : BitVec w)
    {a : Nat} (ha : a ≠ base + i / (8 / w)) : (fieldSet c m base i w f).read a = m.read a := by
  rw [fieldSet_eq c m base i h f, Memory.read_write_other _ _ ha]

theorem read_fieldSet_same (c : Config) (m : Memory) (base i : Nat) {w : Nat} (h : FieldWidth w) (f : BitVec w) :
    (fieldSet c m base i w f).read (base + i / (8 / w)) =
      replaceField (m.read (base + i / (8 / w))) (pos c i w) w f := by
  rw [fieldSet_eq c m base i h f, Memory.read_write_same]

/-- A field reads back what was stored in it. -/
theorem fieldGet_fieldSet_same (c : Config) (m : Memory) (base i : Nat) {w : Nat} (h : FieldWidth w) (f : BitVec w) :
    fieldGet c (fieldSet c m base i w f) base i w = f := by
  apply BitVec.eq_of_getLsbD_eq
  intro j hj
  have hp := pos_add_le c i h
  rw [getLsbD_fieldGet, read_fieldSet_same c m base i h f, getLsbD_replaceField _ hp f (by omega)]
  simp [hj]

/-- Storing a field leaves the field of every other element alone. -/
theorem fieldGet_fieldSet_other (c : Config) (m : Memory) (base : Nat) {i j w : Nat} (h : FieldWidth w)
    (f : BitVec w) (hij : i ≠ j) : fieldGet c (fieldSet c m base i w f) base j w = fieldGet c m base j w := by
  by_cases hb : i / (8 / w) = j / (8 / w)
  · apply BitVec.eq_of_getLsbD_eq
    intro k hk
    have hi := pos_add_le c i h
    have hj := pos_add_le c j h
    have hd := pos_disjoint c h hb hij
    rw [getLsbD_fieldGet, getLsbD_fieldGet, ← hb, read_fieldSet_same c m base i h f,
      getLsbD_replaceField _ hi f (by omega), if_neg (by omega)]
  · simp only [fieldGet]
    rw [read_fieldSet_other c m base i h f (by omega)]

theorem wf_fieldSet (c : Config) {m : Memory} (base i w : Nat) (f : BitVec w) (h : m.wf = true) :
    (fieldSet c m base i w f).wf = true := by
  unfold fieldSet
  split <;> exact Memory.wf_write _ _ h

/-! ## Colours of a format -/

/-- A decoded colour has the format's type (30_encoding R90). -/
@[simp] theorem type_decodeColor (c : Config) (f : FixedFormat) (m : Memory) (base i : Nat) :
    (decodeColor c f m base i).type = f.ctype := by
  cases f <;> simp only [decodeColor] <;> try rfl
  split <;> rfl

/-- An encode keeps the canonical form of memory. -/
theorem wf_encodeColor (c : Config) (f : FixedFormat) {m : Memory} (base i : Nat) (col : Color) (h : m.wf = true) :
    (encodeColor c f m base i col).wf = true := by
  cases f <;> cases col <;> simp only [encodeColor] <;>
    first
      | exact h
      | exact wf_fieldSet c base i _ _ h
      | (repeat' apply Memory.wf_write); exact h
      | (split <;> (repeat' apply Memory.wf_write) <;> exact h)

/-! ## The palette scan (42_indexed_codec R192) -/

/-- What the scan of `n` slots from `k` answers: the lowest match, or that there is none. -/
theorem palScan_cases (c : Config) (pf : FixedFormat) (m : Memory) (base : Nat) (col : Color) (k n : Nat) :
    (palScan c pf m base col k n = none ∧ ∀ s, k ≤ s → s < k + n → decodeColor c pf m base s ≠ col) ∨
    (∃ s, palScan c pf m base col k n = some s ∧ k ≤ s ∧ s < k + n ∧ decodeColor c pf m base s = col ∧
      ∀ t, k ≤ t → t < s → decodeColor c pf m base t ≠ col) := by
  induction n generalizing k with
  | zero => exact Or.inl ⟨rfl, fun s h1 h2 => by omega⟩
  | succ n ih =>
    by_cases h : decodeColor c pf m base k = col
    · refine Or.inr ⟨k, by simp [palScan, h], le_refl _, by omega, h, fun t h1 h2 => by omega⟩
    · rcases ih (k + 1) with ⟨h0, hall⟩ | ⟨s, h0, h1, h2, h3, h4⟩
      · refine Or.inl ⟨by simp [palScan, h, h0], fun s h1 h2 => ?_⟩
        rcases Nat.eq_or_lt_of_le h1 with rfl | h1
        · exact h
        · exact hall s h1 (by omega)
      · refine Or.inr ⟨s, by simp [palScan, h, h0], by omega, by omega, h3, fun t ht1 ht2 => ?_⟩
        rcases Nat.eq_or_lt_of_le ht1 with rfl | ht1
        · exact h
        · exact h4 t ht1 ht2

/-- `pal_find` answers the lowest matching slot below `min(2^n, pcount)`, or that none matches. -/
theorem palFind_cases (c : Config) (pf : FixedFormat) (m : Memory) (base pcount bits : Nat) (col : Color) :
    (palFind c pf m base pcount bits col = none ∧
      ∀ s, s < min (2 ^ bits) pcount → decodeColor c pf m base s ≠ col) ∨
    (∃ s, palFind c pf m base pcount bits col = some s ∧ s < min (2 ^ bits) pcount ∧
      decodeColor c pf m base s = col ∧ ∀ t, t < s → decodeColor c pf m base t ≠ col) := by
  rcases palScan_cases c pf m base col 0 (min (2 ^ bits) pcount) with ⟨h, h'⟩ | ⟨s, h, -, h1, h2, h3⟩
  · exact Or.inl ⟨h, fun s hs => h' s (Nat.zero_le _) (by omega)⟩
  · exact Or.inr ⟨s, h, by omega, h2, fun t ht => h3 t (Nat.zero_le _) ht⟩

end Sys2Proof.Machine
end

