-- ==== Sys2Proof/Laws/State.lean ====
section
/-! SUPPORT. One lemma per field per update of the state, so that no later proof unfolds a record update. -/

namespace Sys2Proof.Machine

variable (s : State)

/-! ## Fault entry (60_exceptions R246) -/

@[simp] theorem State.raise_cfg (f : EngineFault) : (s.raise f).cfg = s.cfg := rfl
@[simp] theorem State.raise_mem (f : EngineFault) : (s.raise f).mem = s.mem := rfl
@[simp] theorem State.raise_fault (f : EngineFault) : (s.raise f).fault = true := rfl
@[simp] theorem State.raise_noMatch (f : EngineFault) : (s.raise f).noMatch = s.noMatch := rfl
@[simp] theorem State.raise_cause (f : EngineFault) : (s.raise f).cause = f.code := rfl
@[simp] theorem State.raise_finfo (f : EngineFault) : (s.raise f).finfo = f.info := rfl
@[simp] theorem State.raise_bufBase (f : EngineFault) : (s.raise f).bufBase = s.bufBase := rfl
@[simp] theorem State.raise_bufLen (f : EngineFault) : (s.raise f).bufLen = s.bufLen := rfl
@[simp] theorem State.raise_bufFmt (f : EngineFault) : (s.raise f).bufFmt = s.bufFmt := rfl
@[simp] theorem State.raise_palBase (f : EngineFault) : (s.raise f).palBase = s.palBase := rfl
@[simp] theorem State.raise_palLen (f : EngineFault) : (s.raise f).palLen = s.palLen := rfl
@[simp] theorem State.raise_palFmt (f : EngineFault) : (s.raise f).palFmt = s.palFmt := rfl
@[simp] theorem State.raise_viewW (f : EngineFault) : (s.raise f).viewW = s.viewW := rfl
@[simp] theorem State.raise_viewH (f : EngineFault) : (s.raise f).viewH = s.viewH := rfl
@[simp] theorem State.raise_arg0 (f : EngineFault) : (s.raise f).arg0 = s.arg0 := rfl
@[simp] theorem State.raise_arg1 (f : EngineFault) : (s.raise f).arg1 = s.arg1 := rfl
@[simp] theorem State.raise_colorIn (f : EngineFault) : (s.raise f).colorIn = s.colorIn := rfl
@[simp] theorem State.raise_colorOut (f : EngineFault) : (s.raise f).colorOut = s.colorOut := rfl
@[simp] theorem State.raise_result (f : EngineFault) : (s.raise f).result = s.result := rfl
@[simp] theorem State.raise_program (f : EngineFault) : (s.raise f).program = s.program := rfl
@[simp] theorem State.raise_observed (f : EngineFault) : (s.raise f).observed = s.observed := rfl

/-! ## The soft reset (70_reset_and_hazards R271) -/

@[simp] theorem State.softReset_cfg : s.softReset.cfg = s.cfg := rfl
@[simp] theorem State.softReset_mem : s.softReset.mem = s.mem := rfl
@[simp] theorem State.softReset_fault : s.softReset.fault = false := rfl
@[simp] theorem State.softReset_noMatch : s.softReset.noMatch = false := rfl
@[simp] theorem State.softReset_cause : s.softReset.cause = 0 := rfl
@[simp] theorem State.softReset_finfo : s.softReset.finfo = 0 := rfl
@[simp] theorem State.softReset_bufBase : s.softReset.bufBase = 0 := rfl
@[simp] theorem State.softReset_bufLen : s.softReset.bufLen = 0 := rfl
@[simp] theorem State.softReset_bufFmt : s.softReset.bufFmt = 0 := rfl
@[simp] theorem State.softReset_palBase : s.softReset.palBase = 0 := rfl
@[simp] theorem State.softReset_palLen : s.softReset.palLen = 0 := rfl
@[simp] theorem State.softReset_palFmt : s.softReset.palFmt = 0 := rfl
@[simp] theorem State.softReset_viewW : s.softReset.viewW = 0 := rfl
@[simp] theorem State.softReset_viewH : s.softReset.viewH = 0 := rfl
@[simp] theorem State.softReset_arg0 : s.softReset.arg0 = 0 := rfl
@[simp] theorem State.softReset_arg1 : s.softReset.arg1 = 0 := rfl
@[simp] theorem State.softReset_colorIn : s.softReset.colorIn = 0 := rfl
@[simp] theorem State.softReset_colorOut : s.softReset.colorOut = 0 := rfl
@[simp] theorem State.softReset_result : s.softReset.result = 0 := rfl
@[simp] theorem State.softReset_program : s.softReset.program = s.program := rfl
@[simp] theorem State.softReset_observed : s.softReset.observed = s.observed := rfl

/-! ## A colour result (10_state R37) -/

@[simp] theorem State.putColorOut_cfg (w : Word) : (s.putColorOut w).cfg = s.cfg := rfl
@[simp] theorem State.putColorOut_mem (w : Word) : (s.putColorOut w).mem = s.mem := rfl
@[simp] theorem State.putColorOut_fault (w : Word) : (s.putColorOut w).fault = s.fault := rfl
@[simp] theorem State.putColorOut_noMatch (w : Word) : (s.putColorOut w).noMatch = false := rfl
@[simp] theorem State.putColorOut_cause (w : Word) : (s.putColorOut w).cause = s.cause := rfl
@[simp] theorem State.putColorOut_finfo (w : Word) : (s.putColorOut w).finfo = s.finfo := rfl
@[simp] theorem State.putColorOut_bufBase (w : Word) : (s.putColorOut w).bufBase = s.bufBase := rfl
@[simp] theorem State.putColorOut_bufLen (w : Word) : (s.putColorOut w).bufLen = s.bufLen := rfl
@[simp] theorem State.putColorOut_bufFmt (w : Word) : (s.putColorOut w).bufFmt = s.bufFmt := rfl
@[simp] theorem State.putColorOut_palBase (w : Word) : (s.putColorOut w).palBase = s.palBase := rfl
@[simp] theorem State.putColorOut_palLen (w : Word) : (s.putColorOut w).palLen = s.palLen := rfl
@[simp] theorem State.putColorOut_palFmt (w : Word) : (s.putColorOut w).palFmt = s.palFmt := rfl
@[simp] theorem State.putColorOut_viewW (w : Word) : (s.putColorOut w).viewW = s.viewW := rfl
@[simp] theorem State.putColorOut_viewH (w : Word) : (s.putColorOut w).viewH = s.viewH := rfl
@[simp] theorem State.putColorOut_arg0 (w : Word) : (s.putColorOut w).arg0 = s.arg0 := rfl
@[simp] theorem State.putColorOut_arg1 (w : Word) : (s.putColorOut w).arg1 = s.arg1 := rfl
@[simp] theorem State.putColorOut_colorIn (w : Word) : (s.putColorOut w).colorIn = s.colorIn := rfl
@[simp] theorem State.putColorOut_colorOut (w : Word) : (s.putColorOut w).colorOut = w := rfl
@[simp] theorem State.putColorOut_result (w : Word) : (s.putColorOut w).result = s.result := rfl
@[simp] theorem State.putColorOut_program (w : Word) : (s.putColorOut w).program = s.program := rfl
@[simp] theorem State.putColorOut_observed (w : Word) : (s.putColorOut w).observed = s.observed := rfl

/-! ## A numeric result (10_state R38) -/

@[simp] theorem State.putResult_cfg (w : Word) (b : Bool) : (s.putResult w b).cfg = s.cfg := rfl
@[simp] theorem State.putResult_mem (w : Word) (b : Bool) : (s.putResult w b).mem = s.mem := rfl
@[simp] theorem State.putResult_fault (w : Word) (b : Bool) : (s.putResult w b).fault = s.fault := rfl
@[simp] theorem State.putResult_noMatch (w : Word) (b : Bool) : (s.putResult w b).noMatch = b := rfl
@[simp] theorem State.putResult_cause (w : Word) (b : Bool) : (s.putResult w b).cause = s.cause := rfl
@[simp] theorem State.putResult_finfo (w : Word) (b : Bool) : (s.putResult w b).finfo = s.finfo := rfl
@[simp] theorem State.putResult_bufBase (w : Word) (b : Bool) : (s.putResult w b).bufBase = s.bufBase := rfl
@[simp] theorem State.putResult_bufLen (w : Word) (b : Bool) : (s.putResult w b).bufLen = s.bufLen := rfl
@[simp] theorem State.putResult_bufFmt (w : Word) (b : Bool) : (s.putResult w b).bufFmt = s.bufFmt := rfl
@[simp] theorem State.putResult_palBase (w : Word) (b : Bool) : (s.putResult w b).palBase = s.palBase := rfl
@[simp] theorem State.putResult_palLen (w : Word) (b : Bool) : (s.putResult w b).palLen = s.palLen := rfl
@[simp] theorem State.putResult_palFmt (w : Word) (b : Bool) : (s.putResult w b).palFmt = s.palFmt := rfl
@[simp] theorem State.putResult_viewW (w : Word) (b : Bool) : (s.putResult w b).viewW = s.viewW := rfl
@[simp] theorem State.putResult_viewH (w : Word) (b : Bool) : (s.putResult w b).viewH = s.viewH := rfl
@[simp] theorem State.putResult_arg0 (w : Word) (b : Bool) : (s.putResult w b).arg0 = s.arg0 := rfl
@[simp] theorem State.putResult_arg1 (w : Word) (b : Bool) : (s.putResult w b).arg1 = s.arg1 := rfl
@[simp] theorem State.putResult_colorIn (w : Word) (b : Bool) : (s.putResult w b).colorIn = s.colorIn := rfl
@[simp] theorem State.putResult_colorOut (w : Word) (b : Bool) : (s.putResult w b).colorOut = s.colorOut := rfl
@[simp] theorem State.putResult_result (w : Word) (b : Bool) : (s.putResult w b).result = w := rfl
@[simp] theorem State.putResult_program (w : Word) (b : Bool) : (s.putResult w b).program = s.program := rfl
@[simp] theorem State.putResult_observed (w : Word) (b : Bool) : (s.putResult w b).observed = s.observed := rfl

/-! ## A memory result (10_state R41) -/

@[simp] theorem State.putMemory_cfg (m : Memory) (b : Bool) : (s.putMemory m b).cfg = s.cfg := rfl
@[simp] theorem State.putMemory_mem (m : Memory) (b : Bool) : (s.putMemory m b).mem = m := rfl
@[simp] theorem State.putMemory_fault (m : Memory) (b : Bool) : (s.putMemory m b).fault = s.fault := rfl
@[simp] theorem State.putMemory_noMatch (m : Memory) (b : Bool) : (s.putMemory m b).noMatch = b := rfl
@[simp] theorem State.putMemory_cause (m : Memory) (b : Bool) : (s.putMemory m b).cause = s.cause := rfl
@[simp] theorem State.putMemory_finfo (m : Memory) (b : Bool) : (s.putMemory m b).finfo = s.finfo := rfl
@[simp] theorem State.putMemory_bufBase (m : Memory) (b : Bool) : (s.putMemory m b).bufBase = s.bufBase := rfl
@[simp] theorem State.putMemory_bufLen (m : Memory) (b : Bool) : (s.putMemory m b).bufLen = s.bufLen := rfl
@[simp] theorem State.putMemory_bufFmt (m : Memory) (b : Bool) : (s.putMemory m b).bufFmt = s.bufFmt := rfl
@[simp] theorem State.putMemory_palBase (m : Memory) (b : Bool) : (s.putMemory m b).palBase = s.palBase := rfl
@[simp] theorem State.putMemory_palLen (m : Memory) (b : Bool) : (s.putMemory m b).palLen = s.palLen := rfl
@[simp] theorem State.putMemory_palFmt (m : Memory) (b : Bool) : (s.putMemory m b).palFmt = s.palFmt := rfl
@[simp] theorem State.putMemory_viewW (m : Memory) (b : Bool) : (s.putMemory m b).viewW = s.viewW := rfl
@[simp] theorem State.putMemory_viewH (m : Memory) (b : Bool) : (s.putMemory m b).viewH = s.viewH := rfl
@[simp] theorem State.putMemory_arg0 (m : Memory) (b : Bool) : (s.putMemory m b).arg0 = s.arg0 := rfl
@[simp] theorem State.putMemory_arg1 (m : Memory) (b : Bool) : (s.putMemory m b).arg1 = s.arg1 := rfl
@[simp] theorem State.putMemory_colorIn (m : Memory) (b : Bool) : (s.putMemory m b).colorIn = s.colorIn := rfl
@[simp] theorem State.putMemory_colorOut (m : Memory) (b : Bool) : (s.putMemory m b).colorOut = s.colorOut := rfl
@[simp] theorem State.putMemory_result (m : Memory) (b : Bool) : (s.putMemory m b).result = s.result := rfl
@[simp] theorem State.putMemory_program (m : Memory) (b : Bool) : (s.putMemory m b).program = s.program := rfl
@[simp] theorem State.putMemory_observed (m : Memory) (b : Bool) : (s.putMemory m b).observed = s.observed := rfl

/-! ## A host read (70_reset_and_hazards R278) -/

@[simp] theorem State.observe_cfg (o : Observation) : (s.observe o).cfg = s.cfg := rfl
@[simp] theorem State.observe_mem (o : Observation) : (s.observe o).mem = s.mem := rfl
@[simp] theorem State.observe_fault (o : Observation) : (s.observe o).fault = s.fault := rfl
@[simp] theorem State.observe_noMatch (o : Observation) : (s.observe o).noMatch = s.noMatch := rfl
@[simp] theorem State.observe_cause (o : Observation) : (s.observe o).cause = s.cause := rfl
@[simp] theorem State.observe_finfo (o : Observation) : (s.observe o).finfo = s.finfo := rfl
@[simp] theorem State.observe_bufBase (o : Observation) : (s.observe o).bufBase = s.bufBase := rfl
@[simp] theorem State.observe_bufLen (o : Observation) : (s.observe o).bufLen = s.bufLen := rfl
@[simp] theorem State.observe_bufFmt (o : Observation) : (s.observe o).bufFmt = s.bufFmt := rfl
@[simp] theorem State.observe_palBase (o : Observation) : (s.observe o).palBase = s.palBase := rfl
@[simp] theorem State.observe_palLen (o : Observation) : (s.observe o).palLen = s.palLen := rfl
@[simp] theorem State.observe_palFmt (o : Observation) : (s.observe o).palFmt = s.palFmt := rfl
@[simp] theorem State.observe_viewW (o : Observation) : (s.observe o).viewW = s.viewW := rfl
@[simp] theorem State.observe_viewH (o : Observation) : (s.observe o).viewH = s.viewH := rfl
@[simp] theorem State.observe_arg0 (o : Observation) : (s.observe o).arg0 = s.arg0 := rfl
@[simp] theorem State.observe_arg1 (o : Observation) : (s.observe o).arg1 = s.arg1 := rfl
@[simp] theorem State.observe_colorIn (o : Observation) : (s.observe o).colorIn = s.colorIn := rfl
@[simp] theorem State.observe_colorOut (o : Observation) : (s.observe o).colorOut = s.colorOut := rfl
@[simp] theorem State.observe_result (o : Observation) : (s.observe o).result = s.result := rfl
@[simp] theorem State.observe_program (o : Observation) : (s.observe o).program = s.program := rfl
@[simp] theorem State.observe_observed (o : Observation) : (s.observe o).observed = s.observed ++ [o] := rfl

/-! ## A register write (30_encoding R81) -/

@[simp] theorem State.writeReg_id (w : Word) : s.writeReg .id w = s := rfl
@[simp] theorem State.writeReg_ctrl (w : Word) : s.writeReg .ctrl w = s := rfl
@[simp] theorem State.writeReg_cmd (w : Word) : s.writeReg .cmd w = s := rfl
@[simp] theorem State.writeReg_status (w : Word) : s.writeReg .status w = s := rfl
@[simp] theorem State.writeReg_finfo (w : Word) : s.writeReg .finfo w = s := rfl
@[simp] theorem State.writeReg_bufBase (w : Word) : s.writeReg .bufBase w = { s with bufBase := keepAddrBits s.cfg w } := rfl
@[simp] theorem State.writeReg_bufLen (w : Word) : s.writeReg .bufLen w = { s with bufLen := w.setWidth 29 } := rfl
@[simp] theorem State.writeReg_bufFmt (w : Word) : s.writeReg .bufFmt w = { s with bufFmt := w.setWidth 8 } := rfl
@[simp] theorem State.writeReg_palBase (w : Word) : s.writeReg .palBase w = { s with palBase := keepAddrBits s.cfg w } := rfl
@[simp] theorem State.writeReg_palLen (w : Word) : s.writeReg .palLen w = { s with palLen := w.setWidth 29 } := rfl
@[simp] theorem State.writeReg_palFmt (w : Word) : s.writeReg .palFmt w = { s with palFmt := w.setWidth 8 } := rfl
@[simp] theorem State.writeReg_viewW (w : Word) : s.writeReg .viewW w = { s with viewW := w.setWidth 16 } := rfl
@[simp] theorem State.writeReg_viewH (w : Word) : s.writeReg .viewH w = { s with viewH := w.setWidth 16 } := rfl
@[simp] theorem State.writeReg_arg0 (w : Word) : s.writeReg .arg0 w = { s with arg0 := w } := rfl
@[simp] theorem State.writeReg_arg1 (w : Word) : s.writeReg .arg1 w = { s with arg1 := w } := rfl
@[simp] theorem State.writeReg_colorIn (w : Word) : s.writeReg .colorIn w = { s with colorIn := w } := rfl
@[simp] theorem State.writeReg_colorOut (w : Word) : s.writeReg .colorOut w = s := rfl
@[simp] theorem State.writeReg_result (w : Word) : s.writeReg .result w = s := rfl

/-- A register write touches no state that is not one of the 11 `RW` registers. -/
theorem State.writeReg_frame (r : Reg) (w : Word) :
    (s.writeReg r w).cfg = s.cfg ∧ (s.writeReg r w).mem = s.mem ∧ (s.writeReg r w).fault = s.fault ∧
    (s.writeReg r w).noMatch = s.noMatch ∧ (s.writeReg r w).cause = s.cause ∧ (s.writeReg r w).finfo = s.finfo ∧
    (s.writeReg r w).colorOut = s.colorOut ∧ (s.writeReg r w).result = s.result ∧
    (s.writeReg r w).program = s.program ∧ (s.writeReg r w).observed = s.observed := by
  cases r <;> simp

end Sys2Proof.Machine
end

