-- ==== Sys2Proof/Laws/Operands.lean ====
section
/-! SUPPORT. What each shared check and access can answer, said once. -/

namespace Sys2Proof.Machine

/-! ## How a command ends (60_exceptions R240) -/

@[simp] theorem State.finish_ok (s t : State) : s.finish (.ok t) = .next t := rfl

@[simp] theorem State.finish_error (s : State) (f : EngineFault) : s.finish (.error f) = .next (s.raise f) := rfl

/-- A command always answers a next state: its results, or the state before it with the fault record. -/
theorem State.finish_cases (s : State) (r : Except EngineFault State) :
    (∃ t, r = .ok t ∧ s.finish r = .next t) ∨ (∃ f, r = .error f ∧ s.finish r = .next (s.raise f)) := by
  cases r with
  | ok t => exact Or.inl ⟨t, rfl, rfl⟩
  | error f => exact Or.inr ⟨f, rfl, rfl⟩

/-- The first failing part of a command is its fault. -/
@[simp] theorem except_bind_ok {α β : Type} (a : α) (k : α → Except EngineFault β) :
    (Except.ok a >>= k) = k a := rfl

@[simp] theorem except_bind_error {α β : Type} (f : EngineFault) (k : α → Except EngineFault β) :
    (Except.error f >>= k) = .error f := rfl

/-- A command that succeeds has succeeded in each part. -/
theorem except_bind_eq_ok {α β : Type} {x : Except EngineFault α} {k : α → Except EngineFault β} {b : β}
    (h : (x >>= k) = .ok b) : ∃ a, x = .ok a ∧ k a = .ok b := by
  cases x with
  | ok a => exact ⟨a, rfl, h⟩
  | error f => cases h

/-! ## Checks (60_exceptions R244, R248 to R251) -/

theorem checkFmtBuf_cases (s : State) :
    (∃ f, Format.ofCode s.bufFmt = some f ∧ checkFmtBuf s = .ok f) ∨
    (Format.ofCode s.bufFmt = none ∧ checkFmtBuf s = .error (.badFormat s.bufFmt)) := by
  unfold checkFmtBuf
  cases h : Format.ofCode s.bufFmt <;> simp

theorem checkFmtPal_cases (s : State) :
    (∃ f, Format.ofCode s.palFmt = some (.fixed f) ∧ checkFmtPal s = .ok f) ∨
    ((∀ f, Format.ofCode s.palFmt ≠ some (.fixed f)) ∧ checkFmtPal s = .error (.badFormat s.palFmt)) := by
  unfold checkFmtPal
  cases h : Format.ofCode s.palFmt with
  | none => simp
  | some f => cases f <;> simp

theorem checkBuf_cases (s : State) :
    (s.bufBase.toNat + s.bufLen.toNat ≤ s.cfg.memSize ∧ checkBuf s = .ok ()) ∨
    (s.cfg.memSize < s.bufBase.toNat + s.bufLen.toNat ∧ checkBuf s = .error .badBufferWindow) := by
  unfold checkBuf
  split
  · next h => exact Or.inr ⟨h, rfl⟩
  · next h => exact Or.inl ⟨Nat.le_of_not_lt h, rfl⟩

theorem checkPal_cases (s : State) :
    (s.palBase.toNat + s.palLen.toNat ≤ s.cfg.memSize ∧ checkPal s = .ok ()) ∨
    (s.cfg.memSize < s.palBase.toNat + s.palLen.toNat ∧ checkPal s = .error .badPaletteWindow) := by
  unfold checkPal
  split
  · next h => exact Or.inr ⟨h, rfl⟩
  · next h => exact Or.inl ⟨Nat.le_of_not_lt h, rfl⟩

theorem checkPoint_cases (s : State) :
    (s.arg0.toNat < 2 ^ 16 ∧ s.arg1.toNat < 2 ^ 16 ∧ checkPoint s = .ok ()) ∨
    (2 ^ 16 ≤ s.arg0.toNat ∧ checkPoint s = .error (.argRange s.arg0)) ∨
    (s.arg0.toNat < 2 ^ 16 ∧ 2 ^ 16 ≤ s.arg1.toNat ∧ checkPoint s = .error (.argRange s.arg1)) := by
  unfold checkPoint
  split
  · next h => exact Or.inr (Or.inl ⟨h, rfl⟩)
  · next h =>
    split
    · next h' => exact Or.inr (Or.inr ⟨Nat.lt_of_not_le h, h', rfl⟩)
    · next h' => exact Or.inl ⟨Nat.lt_of_not_le h, Nat.lt_of_not_le h', rfl⟩

/-- The checks pass on a fixed-depth buffer whose window fits. -/
theorem openBuffer_fixed {s : State} {f : FixedFormat} (hf : Format.ofCode s.bufFmt = some (.fixed f))
    (hw : s.bufBase.toNat + s.bufLen.toNat ≤ s.cfg.memSize) : openBuffer s = .ok (.fixed f) := by
  simp [openBuffer, checkFmtBuf, hf, checkBuf, Nat.not_lt.2 hw, pure, Except.pure]

/-- The checks pass on an indexed buffer whose palette has a fixed-depth format and whose two windows fit. -/
theorem openBuffer_indexed {s : State} {x : IndexedFormat} {pf : FixedFormat}
    (hf : Format.ofCode s.bufFmt = some (.indexed x)) (hp : Format.ofCode s.palFmt = some (.fixed pf))
    (hw : s.bufBase.toNat + s.bufLen.toNat ≤ s.cfg.memSize) (hv : s.palBase.toNat + s.palLen.toNat ≤ s.cfg.memSize) :
    openBuffer s = .ok (.indexed x pf) := by
  simp [openBuffer, checkFmtBuf, hf, checkFmtPal, hp, checkBuf, checkPal, Nat.not_lt.2 hw, Nat.not_lt.2 hv, pure,
    Except.pure]

/-- What a passed `openBuffer` says. -/
theorem openBuffer_eq_ok {s : State} {b : BufferCodec} (h : openBuffer s = .ok b) :
    s.bufBase.toNat + s.bufLen.toNat ≤ s.cfg.memSize ∧
    ((∃ f, b = .fixed f ∧ Format.ofCode s.bufFmt = some (.fixed f)) ∨
     (∃ x pf, b = .indexed x pf ∧ Format.ofCode s.bufFmt = some (.indexed x) ∧
        Format.ofCode s.palFmt = some (.fixed pf) ∧ s.palBase.toNat + s.palLen.toNat ≤ s.cfg.memSize)) := by
  rcases checkFmtBuf_cases s with ⟨f, hf, hc⟩ | ⟨-, hc⟩
  · cases f with
    | fixed f =>
      rcases checkBuf_cases s with ⟨hw, hb⟩ | ⟨-, hb⟩
      · simp [openBuffer, hc, hb, pure, Except.pure] at h
        exact ⟨hw, Or.inl ⟨f, h.symm, hf⟩⟩
      · simp [openBuffer, hc, hb] at h
    | indexed x =>
      rcases checkFmtPal_cases s with ⟨pf, hp, hq⟩ | ⟨-, hq⟩
      · rcases checkBuf_cases s with ⟨hw, hb⟩ | ⟨-, hb⟩
        · rcases checkPal_cases s with ⟨hv, hd⟩ | ⟨-, hd⟩
          · simp [openBuffer, hc, hq, hb, hd, pure, Except.pure] at h
            exact ⟨hw, Or.inr ⟨x, pf, h.symm, hf, hp, hv⟩⟩
          · simp [openBuffer, hc, hq, hb, hd] at h
        · simp [openBuffer, hc, hq, hb] at h
      · simp [openBuffer, hc, hq] at h
  · simp [openBuffer, hc] at h

/-! ## Element access (41_format_codecs R180, R181; 42_indexed_codec R191 to R194) -/

theorem palGet_cases (s : State) (pf : FixedFormat) (k : Nat) :
    (k < paletteCount s pf ∧ palGet s pf k = .ok (decodeColor s.cfg pf s.mem s.palBase.toNat k)) ∨
    (paletteCount s pf ≤ k ∧ palGet s pf k = .error (.palOob k)) := by
  unfold palGet
  split
  · next h => exact Or.inr ⟨h, rfl⟩
  · next h => exact Or.inl ⟨Nat.lt_of_not_le h, rfl⟩

theorem getColor_fixed_of_lt {s : State} {f : FixedFormat} {i : Nat} (h : i < bufferCount s (.fixed f)) :
    getColor s (.fixed f) i = .ok (decodeColor s.cfg f s.mem s.bufBase.toNat i) := by
  simp [getColor, Nat.not_le.2 h]

theorem getColor_indexed_of_lt {s : State} {x : IndexedFormat} {pf : FixedFormat} {i : Nat}
    (h : i < bufferCount s (.indexed x pf)) :
    getColor s (.indexed x pf) i = palGet s pf (fieldGet s.cfg s.mem s.bufBase.toNat i x.bits).toNat := by
  simp [getColor, Nat.not_le.2 h]

theorem getColor_of_ge {s : State} {b : BufferCodec} {i : Nat} (h : bufferCount s b ≤ i) :
    getColor s b i = .error (.indexOob i) := by
  simp [getColor, h]

theorem setColor_cases (s : State) (b : BufferCodec) (i : Nat) (col : Color) :
    (i < bufferCount s b ∧ setColor s b i col = .ok (storeColor s b s.mem i col)) ∨
    (bufferCount s b ≤ i ∧ setColor s b i col = .error (.indexOob i)) := by
  unfold setColor
  split
  · next h => exact Or.inr ⟨h, rfl⟩
  · next h => exact Or.inl ⟨Nat.lt_of_not_le h, rfl⟩

/-- What one element write does: the codec's encode, or the field of the lowest matching slot, or nothing. -/
theorem storeColor_cases (s : State) (b : BufferCodec) (m : Memory) (i : Nat) (col : Color) :
    (∃ f, b = .fixed f ∧ storeColor s b m i col = (encodeColor s.cfg f m s.bufBase.toNat i col, true)) ∨
    (∃ x pf, b = .indexed x pf ∧
      palFind s.cfg pf m s.palBase.toNat (paletteCount s pf) x.bits col = none ∧
      storeColor s b m i col = (m, false)) ∨
    (∃ x pf k, b = .indexed x pf ∧
      palFind s.cfg pf m s.palBase.toNat (paletteCount s pf) x.bits col = some k ∧
      storeColor s b m i col =
        (fieldSet s.cfg m s.bufBase.toNat i x.bits (BitVec.ofNat x.bits k), true)) := by
  cases b with
  | fixed f => exact Or.inl ⟨f, rfl, rfl⟩
  | indexed x pf =>
    cases h : palFind s.cfg pf m s.palBase.toNat (paletteCount s pf) x.bits col with
    | none => exact Or.inr (Or.inl ⟨x, pf, rfl, h, by simp [storeColor, h]⟩)
    | some k => exact Or.inr (Or.inr ⟨x, pf, k, rfl, h, by simp [storeColor, h]⟩)

/-- The walk of `INIT`, packaged once: what one write keeps, the walk keeps. -/
theorem fillColors_induction {P : Memory → Prop} (s : State) (b : BufferCodec) (col : Color) (i n : Nat) (m : Memory)
    (ok : Bool) (h0 : P m)
    (hstep : ∀ j m', i ≤ j → j < i + n → P m' → P (storeColor s b m' j col).1) :
    P (fillColors s b col i n m ok).1 := by
  induction n generalizing i m ok with
  | zero => exact h0
  | succ n ih =>
    simp only [fillColors]
    refine ih (i + 1) _ _ (hstep i m (le_refl _) (by omega) h0) fun j m' h1 h2 hP => ?_
    exact hstep j m' (by omega) (by omega) hP

theorem fillColors_zero (s : State) (b : BufferCodec) (col : Color) (i : Nat) (m : Memory) (ok : Bool) :
    fillColors s b col i 0 m ok = (m, ok) := rfl

theorem fillColors_succ (s : State) (b : BufferCodec) (col : Color) (i n : Nat) (m : Memory) (ok : Bool) :
    fillColors s b col i (n + 1) m ok =
      fillColors s b col (i + 1) n (storeColor s b m i col).1 (ok && (storeColor s b m i col).2) := rfl

end Sys2Proof.Machine
end

