-- ==== Sys2Proof/Laws/Exec.lean ====
section
/-! SUPPORT. What each command can do, said once: its results, or the fault of the part that failed. -/

namespace Sys2Proof.Machine

theorem exec_numc_cases (s : State) :
    (∃ f, checkFmtBuf s = .ok f ∧
      exec .numc s = .next (s.putResult (BitVec.ofNat 32 (count s.bufLen.toNat f.bpp)) false)) ∨
    (∃ e, checkFmtBuf s = .error e ∧ exec .numc s = .next (s.raise e)) := by
  cases h : checkFmtBuf s with
  | ok f => exact Or.inl ⟨f, rfl, by simp only [exec, execNumc, h]; rfl⟩
  | error e => exact Or.inr ⟨e, rfl, by simp only [exec, execNumc, h]; rfl⟩

theorem exec_palnum_cases (s : State) :
    (∃ pf, checkFmtPal s = .ok pf ∧
      exec .palnum s = .next (s.putResult (BitVec.ofNat 32 (paletteCount s pf)) false)) ∨
    (∃ e, checkFmtPal s = .error e ∧ exec .palnum s = .next (s.raise e)) := by
  cases h : checkFmtPal s with
  | ok pf => exact Or.inl ⟨pf, rfl, by simp only [exec, execPalnum, h]; rfl⟩
  | error e => exact Or.inr ⟨e, rfl, by simp only [exec, execPalnum, h]; rfl⟩

theorem exec_capb_cases (s : State) :
    (∃ f, checkFmtBuf s = .ok f ∧ capBytes s.arg0.toNat f.bpp < 2 ^ 32 ∧
      exec .capb s = .next (s.putResult (BitVec.ofNat 32 (capBytes s.arg0.toNat f.bpp)) false)) ∨
    (∃ f, checkFmtBuf s = .ok f ∧ 2 ^ 32 ≤ capBytes s.arg0.toNat f.bpp ∧
      exec .capb s = .next (s.raise (.argRange s.arg0))) ∨
    (∃ e, checkFmtBuf s = .error e ∧ exec .capb s = .next (s.raise e)) := by
  cases h : checkFmtBuf s with
  | ok f =>
    by_cases hr : 2 ^ 32 ≤ capBytes s.arg0.toNat f.bpp
    · exact Or.inr (Or.inl ⟨f, rfl, hr, by simp only [exec, execCapb, h, except_bind_ok, if_pos hr]; rfl⟩)
    · exact Or.inl ⟨f, rfl, Nat.lt_of_not_le hr, by simp only [exec, execCapb, h, except_bind_ok, if_neg hr]; rfl⟩
  | error e => exact Or.inr (Or.inr ⟨e, rfl, by simp only [exec, execCapb, h]; rfl⟩)

theorem exec_xlate_cases (s : State) :
    (checkPoint s = .ok () ∧ exec .xlate s = .next (s.putResult (BitVec.ofNat 32 (viewIndex s)) false)) ∨
    (∃ e, checkPoint s = .error e ∧ exec .xlate s = .next (s.raise e)) := by
  cases h : checkPoint s with
  | ok u => exact Or.inl ⟨rfl, by simp only [exec, execXlate, h]; rfl⟩
  | error e => exact Or.inr ⟨e, rfl, by simp only [exec, execXlate, h]; rfl⟩

theorem exec_get_cases (s : State) :
    (∃ b col, openBuffer s = .ok b ∧ getColor s b s.arg0.toNat = .ok col ∧
      exec .get s = .next (s.putColorOut col.toWord)) ∨
    (∃ b e, openBuffer s = .ok b ∧ getColor s b s.arg0.toNat = .error e ∧ exec .get s = .next (s.raise e)) ∨
    (∃ e, openBuffer s = .error e ∧ exec .get s = .next (s.raise e)) := by
  cases h : openBuffer s with
  | ok b =>
    cases hg : getColor s b s.arg0.toNat with
    | ok col => exact Or.inl ⟨b, col, rfl, hg, by simp only [exec, execGet, h, except_bind_ok, hg]; rfl⟩
    | error e => exact Or.inr (Or.inl ⟨b, e, rfl, hg, by simp only [exec, execGet, h, except_bind_ok, hg]; rfl⟩)
  | error e => exact Or.inr (Or.inr ⟨e, rfl, by simp only [exec, execGet, h]; rfl⟩)

theorem exec_set_cases (s : State) :
    (∃ b r, openBuffer s = .ok b ∧ setColor s b s.arg0.toNat (colorOperand s b.ctype) = .ok r ∧
      exec .set s = .next (s.putMemory r.1 (noMatchOf r.2))) ∨
    (∃ b e, openBuffer s = .ok b ∧ setColor s b s.arg0.toNat (colorOperand s b.ctype) = .error e ∧
      exec .set s = .next (s.raise e)) ∨
    (∃ e, openBuffer s = .error e ∧ exec .set s = .next (s.raise e)) := by
  cases h : openBuffer s with
  | ok b =>
    cases hg : setColor s b s.arg0.toNat (colorOperand s b.ctype) with
    | ok r => exact Or.inl ⟨b, r, rfl, hg, by simp only [exec, execSet, h, except_bind_ok, hg]; rfl⟩
    | error e => exact Or.inr (Or.inl ⟨b, e, rfl, hg, by simp only [exec, execSet, h, except_bind_ok, hg]; rfl⟩)
  | error e => exact Or.inr (Or.inr ⟨e, rfl, by simp only [exec, execSet, h]; rfl⟩)

theorem exec_init_cases (s : State) :
    (∃ b, openBuffer s = .ok b ∧
      exec .init s =
        .next (s.putMemory (fillColors s b (defaultColor b.ctype) 0 (bufferCount s b) s.mem true).1
          (noMatchOf (fillColors s b (defaultColor b.ctype) 0 (bufferCount s b) s.mem true).2))) ∨
    (∃ e, openBuffer s = .error e ∧ exec .init s = .next (s.raise e)) := by
  cases h : openBuffer s with
  | ok b => exact Or.inl ⟨b, rfl, by simp only [exec, execInit, h]; rfl⟩
  | error e => exact Or.inr ⟨e, rfl, by simp only [exec, execInit, h]; rfl⟩

theorem exec_pget_cases (s : State) :
    (∃ b col, openBuffer s = .ok b ∧ checkPoint s = .ok () ∧ getColor s b (viewIndex s) = .ok col ∧
      exec .pget s = .next (s.putColorOut col.toWord)) ∨
    (∃ b e, openBuffer s = .ok b ∧ checkPoint s = .ok () ∧ getColor s b (viewIndex s) = .error e ∧
      exec .pget s = .next (s.raise e)) ∨
    (∃ b e, openBuffer s = .ok b ∧ checkPoint s = .error e ∧ exec .pget s = .next (s.raise e)) ∨
    (∃ e, openBuffer s = .error e ∧ exec .pget s = .next (s.raise e)) := by
  cases h : openBuffer s with
  | ok b =>
    cases hp : checkPoint s with
    | ok u =>
      cases hg : getColor s b (viewIndex s) with
      | ok col => exact Or.inl ⟨b, col, rfl, rfl, hg, by simp only [exec, execPget, h, except_bind_ok, hp, hg]; rfl⟩
      | error e =>
        exact Or.inr (Or.inl ⟨b, e, rfl, rfl, hg, by simp only [exec, execPget, h, except_bind_ok, hp, hg]; rfl⟩)
    | error e =>
      exact Or.inr (Or.inr (Or.inl ⟨b, e, rfl, rfl, by simp only [exec, execPget, h, except_bind_ok, hp]; rfl⟩))
  | error e => exact Or.inr (Or.inr (Or.inr ⟨e, rfl, by simp only [exec, execPget, h]; rfl⟩))

theorem exec_pset_cases (s : State) :
    (∃ b r, openBuffer s = .ok b ∧ checkPoint s = .ok () ∧
      setColor s b (viewIndex s) (colorOperand s b.ctype) = .ok r ∧
      exec .pset s = .next (s.putMemory r.1 (noMatchOf r.2))) ∨
    (∃ b e, openBuffer s = .ok b ∧ checkPoint s = .ok () ∧
      setColor s b (viewIndex s) (colorOperand s b.ctype) = .error e ∧ exec .pset s = .next (s.raise e)) ∨
    (∃ b e, openBuffer s = .ok b ∧ checkPoint s = .error e ∧ exec .pset s = .next (s.raise e)) ∨
    (∃ e, openBuffer s = .error e ∧ exec .pset s = .next (s.raise e)) := by
  cases h : openBuffer s with
  | ok b =>
    cases hp : checkPoint s with
    | ok u =>
      cases hg : setColor s b (viewIndex s) (colorOperand s b.ctype) with
      | ok r => exact Or.inl ⟨b, r, rfl, rfl, hg, by simp only [exec, execPset, h, except_bind_ok, hp, hg]; rfl⟩
      | error e =>
        exact Or.inr (Or.inl ⟨b, e, rfl, rfl, hg, by simp only [exec, execPset, h, except_bind_ok, hp, hg]; rfl⟩)
    | error e =>
      exact Or.inr (Or.inr (Or.inl ⟨b, e, rfl, rfl, by simp only [exec, execPset, h, except_bind_ok, hp]; rfl⟩))
  | error e => exact Or.inr (Or.inr (Or.inr ⟨e, rfl, by simp only [exec, execPset, h]; rfl⟩))

theorem exec_palget_cases (s : State) :
    (∃ pf col, checkFmtPal s = .ok pf ∧ checkPal s = .ok () ∧ palGet s pf s.arg0.toNat = .ok col ∧
      exec .palget s = .next (s.putColorOut col.toWord)) ∨
    (∃ pf e, checkFmtPal s = .ok pf ∧ checkPal s = .ok () ∧ palGet s pf s.arg0.toNat = .error e ∧
      exec .palget s = .next (s.raise e)) ∨
    (∃ pf e, checkFmtPal s = .ok pf ∧ checkPal s = .error e ∧ exec .palget s = .next (s.raise e)) ∨
    (∃ e, checkFmtPal s = .error e ∧ exec .palget s = .next (s.raise e)) := by
  cases h : checkFmtPal s with
  | ok pf =>
    cases hp : checkPal s with
    | ok u =>
      cases hg : palGet s pf s.arg0.toNat with
      | ok col => exact Or.inl ⟨pf, col, rfl, rfl, hg, by simp only [exec, execPalget, h, except_bind_ok, hp, hg]; rfl⟩
      | error e =>
        exact Or.inr (Or.inl ⟨pf, e, rfl, rfl, hg, by simp only [exec, execPalget, h, except_bind_ok, hp, hg]; rfl⟩)
    | error e =>
      exact Or.inr (Or.inr (Or.inl ⟨pf, e, rfl, rfl, by simp only [exec, execPalget, h, except_bind_ok, hp]; rfl⟩))
  | error e => exact Or.inr (Or.inr (Or.inr ⟨e, rfl, by simp only [exec, execPalget, h]; rfl⟩))

theorem checkFmtIndexed_cases (s : State) :
    (∃ x, Format.ofCode s.bufFmt = some (.indexed x) ∧ checkFmtIndexed s = .ok x) ∨
    ((∀ x, Format.ofCode s.bufFmt ≠ some (.indexed x)) ∧ checkFmtIndexed s = .error (.badFormat s.bufFmt)) := by
  unfold checkFmtIndexed checkFmtBuf
  cases h : Format.ofCode s.bufFmt with
  | none => exact Or.inr ⟨fun x => by simp, rfl⟩
  | some f =>
    cases f with
    | fixed f => exact Or.inr ⟨fun x => by simp, rfl⟩
    | indexed x => exact Or.inl ⟨x, rfl, rfl⟩

theorem exec_palfind_cases (s : State) :
    (∃ x pf, checkFmtIndexed s = .ok x ∧ checkFmtPal s = .ok pf ∧ checkPal s = .ok () ∧
      palFind s.cfg pf s.mem s.palBase.toNat (paletteCount s pf) x.bits (colorOperand s pf.ctype) = none ∧
      exec .palfind s = .next (s.putResult 0xFFFFFFFF#32 true)) ∨
    (∃ x pf k, checkFmtIndexed s = .ok x ∧ checkFmtPal s = .ok pf ∧ checkPal s = .ok () ∧
      palFind s.cfg pf s.mem s.palBase.toNat (paletteCount s pf) x.bits (colorOperand s pf.ctype) = some k ∧
      exec .palfind s = .next (s.putResult (BitVec.ofNat 32 k) false)) ∨
    (∃ x pf e, checkFmtIndexed s = .ok x ∧ checkFmtPal s = .ok pf ∧ checkPal s = .error e ∧
      exec .palfind s = .next (s.raise e)) ∨
    (∃ x e, checkFmtIndexed s = .ok x ∧ checkFmtPal s = .error e ∧ exec .palfind s = .next (s.raise e)) ∨
    (∃ e, checkFmtIndexed s = .error e ∧ exec .palfind s = .next (s.raise e)) := by
  cases h : checkFmtIndexed s with
  | error e => exact Or.inr (Or.inr (Or.inr (Or.inr ⟨e, rfl, by simp only [exec, execPalfind, h]; rfl⟩)))
  | ok x =>
    cases hp : checkFmtPal s with
    | error e =>
      exact Or.inr (Or.inr (Or.inr (Or.inl ⟨x, e, rfl, rfl, by
        simp only [exec, execPalfind, h, except_bind_ok, hp]; rfl⟩)))
    | ok pf =>
      cases hq : checkPal s with
      | error e =>
        exact Or.inr (Or.inr (Or.inl ⟨x, pf, e, rfl, rfl, rfl, by
          simp only [exec, execPalfind, h, except_bind_ok, hp, hq]; rfl⟩))
      | ok u =>
        cases hf : palFind s.cfg pf s.mem s.palBase.toNat (paletteCount s pf) x.bits (colorOperand s pf.ctype) with
        | none =>
          exact Or.inl ⟨x, pf, rfl, rfl, rfl, hf, by
            simp only [exec, execPalfind, h, except_bind_ok, hp, hq, hf]; rfl⟩
        | some k =>
          exact Or.inr (Or.inl ⟨x, pf, k, rfl, rfl, rfl, hf, by
            simp only [exec, execPalfind, h, except_bind_ok, hp, hq, hf]; rfl⟩)

/-- A conversion writes `COLOR_OUT` and clears `NOMATCH`, whatever the state. -/
theorem exec_cvt_cases (s : State) (i : Instr)
    (h : i ∈ [Instr.cvtRgbGs, .cvtGsRgb, .cvtGsRgba, .cvtRgbaRgb, .cvtRgbaGsa, .cvtGsaRgba, .cvtBwGs, .cvtGsBw]) :
    ∃ w, exec i s = .next (s.putColorOut w) := by
  simp only [List.mem_cons, List.not_mem_nil, or_false] at h
  rcases h with rfl | rfl | rfl | rfl | rfl | rfl | rfl | rfl <;> exact ⟨_, rfl⟩

/-! ## Colour operands and results -/

/-- A colour is read from the bits its type lists, and from no other (30_encoding R94). -/
@[simp] theorem Color.fromWord_laneBits (t : ColorType) (w : Word) :
    Color.fromWord t (w &&& laneBits t) = Color.fromWord t w := by
  have ones (b : Byte) : b &&& 255#8 = b := BitVec.and_allOnes
  cases t <;> simp [Color.fromWord, laneBits, lane, BitVec.extractLsb'_and, ones]

/-- Words that agree on the lanes of a type read as the same colour. -/
theorem Color.fromWord_congr {t : ColorType} {w w' : Word} (h : w &&& laneBits t = w' &&& laneBits t) :
    Color.fromWord t w = Color.fromWord t w' := by
  rw [← Color.fromWord_laneBits t w, h, Color.fromWord_laneBits]

/-- The palette's entries have the type of the format that was checked. -/
theorem entryType_of_checkFmtPal {s : State} {pf : FixedFormat} (h : checkFmtPal s = .ok pf) :
    s.entryType = some pf.ctype := by
  rcases checkFmtPal_cases s with ⟨pf', hf, he⟩ | ⟨-, he⟩
  · rw [he] at h
    cases h
    simp [State.entryType, hf]
  · rw [he] at h
    cases h

/-- The buffer's elements have the type of the codec that was opened. -/
theorem elementType_of_openBuffer {s : State} {b : BufferCodec} (h : openBuffer s = .ok b) :
    s.elementType = some b.ctype := by
  obtain ⟨-, ⟨f, rfl, hf⟩ | ⟨x, pf, rfl, hx, hp, -⟩⟩ := openBuffer_eq_ok h
  · simp [State.elementType, hf, BufferCodec.ctype]
  · simp [State.elementType, State.entryType, hx, hp, BufferCodec.ctype]

/-! ## Bytes an encode can reach -/

/-- An encode writes bytes of the element's footprint and no other: what every such write keeps, the encode keeps. -/
theorem encodeColor_induction {P : Memory → Prop} (c : Config) (f : FixedFormat) (m : Memory) (base i : Nat)
    (col : Color) (h0 : P m)
    (hw : ∀ (m' : Memory) (a : Nat) (v : Byte), touches (footprint c f i) base a → P m' → P (m'.write a v)) :
    P (encodeColor c f m base i col) := by
  have hk : ∀ {a k : Nat} {mask : Byte}, (k, mask) ∈ footprint c f i → a = base + k →
      touches (footprint c f i) base a := fun {a k mask} hm ha => ⟨k, mask, ha, hm⟩
  have field : ∀ {w : Nat} (x : BitVec w), FieldWidth w → footprint c f i = fieldFootprint c i w →
      P (fieldSet c m base i w x) := by
    intro w x hf he
    rw [fieldSet_eq c m base i hf x]
    exact hw _ _ _ (hk (k := i / (8 / w)) (by rw [he]; exact List.mem_singleton.2 rfl) rfl) h0
  cases f <;> cases col <;> simp only [encodeColor] <;> try exact h0
  case bw1.bw => exact field _ (by decide) rfl
  case gs1.gs => exact field _ (by decide) rfl
  case gs2.gs => exact field _ (by decide) rfl
  case gs4.gs => exact field _ (by decide) rfl
  case gsa11.gsa => exact field _ (by decide) rfl
  case gsa22.gsa => exact field _ (by decide) rfl
  case gsa31.gsa => exact field _ (by decide) rfl
  case rgb444.rgb =>
    split
    · next he =>
      have hfp : footprint c .rgb444 i = [(3 * (i / 2), 0xFF#8), (3 * (i / 2) + 1, 0xF0#8)] := by
        simp only [footprint, he, if_true]
      refine hw _ _ _ (hk (k := 3 * (i / 2) + 1) (mask := 0xF0#8) (by simp [hfp]) rfl)
        (hw _ _ _ (hk (k := 3 * (i / 2)) (mask := 0xFF#8) (by simp [hfp]) rfl) h0)
    · next he =>
      have hfp : footprint c .rgb444 i = [(3 * (i / 2) + 1, 0x0F#8), (3 * (i / 2) + 2, 0xFF#8)] := by
        simp only [footprint, he, if_false]
      refine hw _ _ _ (hk (k := 3 * (i / 2) + 2) (mask := 0xFF#8) (by simp [hfp]) rfl)
        (hw _ _ _ (hk (k := 3 * (i / 2) + 1) (mask := 0x0F#8) (by simp [hfp]) rfl) h0)
  all_goals
    repeat' apply hw
    all_goals first | exact h0 | exact hk (mask := 0xFF#8) (by simp [footprint]) rfl

end Sys2Proof.Machine
end

