-- ==== Sys2Proof/Laws/PerInstr.lean ====
section
/-! SUPPORT. A statement for every command, one lemma per constructor: the opcode byte of a well-formed command lies in
the command's word unchanged, and decoding that byte gives the command back (30_encoding R82, R86). -/

namespace Sys2Proof.Laws.OpcodeDecodes

/-- The low byte of a well-formed command's word is its opcode, which selects its row. -/
def Statement (i : Instr) : Prop :=
  i.wellFormed = true → (encode i).extractLsb' 0 8 = i.opcode ∧ decodeOpcode i.opcode = .ok i

theorem numc : Statement .numc := fun _ => ⟨rfl, rfl⟩
theorem get : Statement .get := fun _ => ⟨rfl, rfl⟩
theorem set : Statement .set := fun _ => ⟨rfl, rfl⟩
theorem init : Statement .init := fun _ => ⟨rfl, rfl⟩
theorem capb : Statement .capb := fun _ => ⟨rfl, rfl⟩
theorem xlate : Statement .xlate := fun _ => ⟨rfl, rfl⟩
theorem pget : Statement .pget := fun _ => ⟨rfl, rfl⟩
theorem pset : Statement .pset := fun _ => ⟨rfl, rfl⟩
theorem palnum : Statement .palnum := fun _ => ⟨rfl, rfl⟩
theorem palget : Statement .palget := fun _ => ⟨rfl, rfl⟩
theorem palfind : Statement .palfind := fun _ => ⟨rfl, rfl⟩
theorem cvtRgbGs : Statement .cvtRgbGs := fun _ => ⟨rfl, rfl⟩
theorem cvtGsRgb : Statement .cvtGsRgb := fun _ => ⟨rfl, rfl⟩
theorem cvtGsRgba : Statement .cvtGsRgba := fun _ => ⟨rfl, rfl⟩
theorem cvtRgbaRgb : Statement .cvtRgbaRgb := fun _ => ⟨rfl, rfl⟩
theorem cvtRgbaGsa : Statement .cvtRgbaGsa := fun _ => ⟨rfl, rfl⟩
theorem cvtGsaRgba : Statement .cvtGsaRgba := fun _ => ⟨rfl, rfl⟩
theorem cvtBwGs : Statement .cvtBwGs := fun _ => ⟨rfl, rfl⟩
theorem cvtGsBw : Statement .cvtGsBw := fun _ => ⟨rfl, rfl⟩

end Sys2Proof.Laws.OpcodeDecodes
end

