-- ==== Sys2Proof/Laws/Step.lean ====
section
/-! SUPPORT. What a host action and a step can do, said once; the register map both ways; the status word. -/

namespace Sys2Proof.Machine

/-! ## The register map (10_state Table 10-1) -/

@[simp] theorem Reg.ofOffset_offset (r : Reg) : Reg.ofOffset r.offset = some r := by cases r <;> decide

theorem Reg.eq_offset_of_ofOffset {r : Reg} : ∀ {off : BitVec 8}, Reg.ofOffset off = some r → off = r.offset := by
  cases r <;> decide

/-- Every register stands at an aligned offset. -/
@[simp] theorem Reg.offset_aligned (r : Reg) : offsetAligned r.offset = true := by cases r <;> decide

theorem offsetAligned_iff (off : BitVec 8) : offsetAligned off = true ↔ off.toNat % 4 = 0 := by simp [offsetAligned]

/-- The status word as a number (10_state Table 10-2). -/
theorem State.statusWord_toNat (s : State) :
    s.statusWord.toNat = s.cause.toNat * 16 + s.noMatch.toNat * 2 + s.fault.toNat := by
  unfold State.statusWord
  generalize s.cause = c
  cases s.noMatch <;> cases s.fault <;> revert c <;> decide

/-! ## Register writes and reads (30_encoding R80, R81) -/

variable {run : Instr → State → Host.Outcome State Fault Refusal}

theorem regWrite_unaligned {off : BitVec 8} (w : Word) (s : State) (h : offsetAligned off = false) :
    regWrite run off w s = .refused (.unalignedTransaction off) := by simp [regWrite, h]

/-- A write to a reserved offset is ignored. -/
theorem regWrite_reserved {off : BitVec 8} (w : Word) (s : State) (ha : offsetAligned off = true)
    (h : Reg.ofOffset off = none) : regWrite run off w s = .next s := by simp [regWrite, ha, h]

theorem regWrite_ctrl (w : Word) (s : State) : regWrite run Reg.ctrl.offset w s = .next (ctrlWrite w s) := by
  simp [regWrite]

theorem regWrite_cmd {s : State} (w : Word) (h : s.fault = false) :
    regWrite run Reg.cmd.offset w s = runCommand run w s := by simp [regWrite, h]

/-- While the engine is faulted a write to any register but `CTRL` is ignored (10_state R44). -/
theorem regWrite_faulted {s : State} {r : Reg} (w : Word) (h : s.fault = true) (hr : r ≠ .ctrl) :
    regWrite run r.offset w s = .next s := by
  cases r <;> simp_all [regWrite]

/-- A write to a register that is no trigger stores what `writeReg` stores. -/
theorem regWrite_reg {s : State} {r : Reg} (w : Word) (h : s.fault = false) (h1 : r ≠ .ctrl) (h2 : r ≠ .cmd) :
    regWrite run r.offset w s = .next (s.writeReg r w) := by
  cases r <;> simp_all [regWrite]

theorem ctrlWrite_cases (w : Word) (s : State) :
    (w.getLsbD 0 = true ∧ ctrlWrite w s = s.softReset) ∨ (w.getLsbD 0 = false ∧ ctrlWrite w s = s) := by
  unfold ctrlWrite
  cases h : w.getLsbD 0 <;> simp

theorem runCommand_cases (w : Word) (s : State) :
    (∃ i, decode w = .ok i ∧ runCommand run w s = run i s) ∨
    (∃ e, decode w = .error e ∧ runCommand run w s = .next (s.raise (.illegalCmd w))) := by
  unfold runCommand
  cases h : decode w with
  | ok i => exact Or.inl ⟨i, rfl, rfl⟩
  | error e => exact Or.inr ⟨e, rfl, rfl⟩

/-- Everything a register write can do. -/
theorem regWrite_cases (off : BitVec 8) (w : Word) (s : State) :
    (offsetAligned off = false ∧ regWrite run off w s = .refused (.unalignedTransaction off)) ∨
    (offsetAligned off = true ∧ Reg.ofOffset off = none ∧ regWrite run off w s = .next s) ∨
    (off = Reg.ctrl.offset ∧ regWrite run off w s = .next (ctrlWrite w s)) ∨
    (∃ r : Reg, off = r.offset ∧ r ≠ .ctrl ∧ s.fault = true ∧ regWrite run off w s = .next s) ∨
    (off = Reg.cmd.offset ∧ s.fault = false ∧ regWrite run off w s = runCommand run w s) ∨
    (∃ r : Reg, off = r.offset ∧ r ≠ .ctrl ∧ r ≠ .cmd ∧ s.fault = false ∧
      regWrite run off w s = .next (s.writeReg r w)) := by
  cases ha : offsetAligned off with
  | false => exact Or.inl ⟨rfl, regWrite_unaligned w s ha⟩
  | true =>
    cases hr : Reg.ofOffset off with
    | none => exact Or.inr (Or.inl ⟨rfl, rfl, regWrite_reserved w s ha hr⟩)
    | some r =>
      obtain rfl := Reg.eq_offset_of_ofOffset hr
      by_cases h1 : r = .ctrl
      · subst h1; exact Or.inr (Or.inr (Or.inl ⟨rfl, regWrite_ctrl w s⟩))
      · cases hf : s.fault with
        | true => exact Or.inr (Or.inr (Or.inr (Or.inl ⟨r, rfl, h1, rfl, regWrite_faulted w hf h1⟩)))
        | false =>
          by_cases h2 : r = .cmd
          · subst h2; exact Or.inr (Or.inr (Or.inr (Or.inr (Or.inl ⟨rfl, rfl, regWrite_cmd w hf⟩))))
          · exact Or.inr (Or.inr (Or.inr (Or.inr (Or.inr ⟨r, rfl, h1, h2, rfl, regWrite_reg w hf h1 h2⟩))))

theorem regRead_cases (off : BitVec 8) (s : State) :
    (offsetAligned off = false ∧ regRead off s = .refused (.unalignedTransaction off)) ∨
    (offsetAligned off = true ∧ regRead off s = .next (s.observe (.reg (regValue s off)))) := by
  unfold regRead
  cases h : offsetAligned off <;> simp

/-! ## Host accesses to memory (20_memory R69) -/

theorem hostMemWrite_cases (a : Word) (v : Byte) (s : State) :
    (a.toNat < s.cfg.memSize ∧ hostMemWrite a v s = .next { s with mem := s.mem.write a.toNat v }) ∨
    (s.cfg.memSize ≤ a.toNat ∧ hostMemWrite a v s = .fault (.noSuchAddress a)) := by
  unfold hostMemWrite
  split
  · next h => exact Or.inl ⟨h, rfl⟩
  · next h => exact Or.inr ⟨Nat.le_of_not_lt h, rfl⟩

theorem hostMemRead_cases (a : Word) (s : State) :
    (a.toNat < s.cfg.memSize ∧ hostMemRead a s = .next (s.observe (.mem (s.mem.read a.toNat)))) ∨
    (s.cfg.memSize ≤ a.toNat ∧ hostMemRead a s = .fault (.noSuchAddress a)) := by
  unfold hostMemRead
  split
  · next h => exact Or.inl ⟨h, rfl⟩
  · next h => exact Or.inr ⟨Nat.le_of_not_lt h, rfl⟩

/-! ## The step -/

/-- A step performs the host's next action on the state without it. -/
theorem step_cons {s : State} {act : HostAction} {rest : List HostAction} (h : s.program = act :: rest) :
    step s = perform exec act { s with program := rest } := by simp [step, hostStep, h]

/-- A step either finds no action, or performs one. -/
theorem step_cases (s : State) :
    (s.program = [] ∧ step s = .next s) ∨
    (∃ act rest, s.program = act :: rest ∧ step s = perform exec act { s with program := rest }) := by
  cases h : s.program with
  | nil => exact Or.inl ⟨rfl, by simp [step, hostStep, h]⟩
  | cons act rest => exact Or.inr ⟨act, rest, rfl, step_cons h⟩

end Sys2Proof.Machine
end

