-- ==== Sys2Proof/Tests/Slice0.lean ====
section
/-! SUPPORT. The model's own tests, with expected values from the worked examples of spec/ and the vectors of
95_test_vectors, and for every statement with hypotheses a state and operands that meet them. -/

namespace Sys2Proof.Tests

open Machine

/-! ## Helpers -/

/-- The given bytes at ascending addresses from `a`. -/
def load (a : Nat) (bytes : List Byte) (m : Memory) : Memory :=
  match bytes with
  | [] => m
  | v :: rest => load (a + 1) rest (m.write a v)

/-- The bytes of a memory from `a` upward. -/
def dump (m : Memory) (a n : Nat) : List Byte := (List.range n).map fun k => m.read (a + k)

/-- A reset engine with a buffer window at `0x100`. -/
def buffer (fmt : BitVec 8) (bytes : List Byte) : State :=
  { State.reset with
    mem := load 0x100 bytes [], bufBase := 0x100, bufLen := BitVec.ofNat 29 bytes.length, bufFmt := fmt }

/-- The same with a palette window at `0x200`. -/
def withPalette (s : State) (fmt : BitVec 8) (bytes : List Byte) : State :=
  { s with mem := load 0x200 bytes s.mem, palBase := 0x200, palLen := BitVec.ofNat 29 bytes.length, palFmt := fmt }

/-- Black, red, green, white, all opaque (42_indexed_codec R193). -/
def fourColors : List Byte := [0, 0, 0, 255, 255, 0, 0, 255, 0, 255, 0, 255, 255, 255, 255, 255]

/-- The indexed buffer of 42_indexed_codec R193. -/
def indexed : State := withPalette (buffer 0x21 [0x1B, 0xE4]) 0x10 fourColors

def next? (o : Host.Outcome State Fault Refusal) : Option State :=
  match o with
  | .next t => some t
  | .fault _ => none
  | .refused _ => none

def colorAfter (i : Instr) (s : State) : Option Word := (next? (exec i s)).map (·.colorOut)
def resultAfter (i : Instr) (s : State) : Option Word := (next? (exec i s)).map (·.result)
def bytesAfter (i : Instr) (s : State) (n : Nat) : Option (List Byte) :=
  (next? (exec i s)).map fun t => dump t.mem 0x100 n
def statusAfter (i : Instr) (s : State) : Option (Word × Word) :=
  (next? (exec i s)).map fun t => (t.statusWord, t.finfo)

/-! ## Ill-formed terms -/

theorem test_ill_formed_actions :
    HostAction.wellFormed (.regWrite 0x01#8 0) = false ∧ HostAction.wellFormed (.regWrite 0x0A#8 0) = false ∧
    HostAction.wellFormed (.regRead 0x03#8) = false ∧ HostAction.wellFormed (.regRead 0xFF#8) = false := by decide

theorem test_well_formed_actions :
    HostAction.wellFormed (.regWrite 0x08#8 1) = true ∧ HostAction.wellFormed (.regRead 0xFC#8) = true ∧
    HostAction.wellFormed (.memWrite 3 4) = true ∧ HostAction.wellFormed (.memRead 3) = true := by decide

/-! ## Decoding words written out bit by bit (30_encoding Tables 30-1, 30-2) -/

theorem test_decode_buffer :
    decode 0b00000000000000000000000000000001#32 = .ok .numc ∧
    decode 0b00000000000000000000000000000010#32 = .ok .get ∧
    decode 0b00000000000000000000000000000011#32 = .ok .set ∧
    decode 0b00000000000000000000000000000100#32 = .ok .init ∧
    decode 0b00000000000000000000000000000101#32 = .ok .capb := by decide

theorem test_decode_view :
    decode 0b00000000000000000000000000001000#32 = .ok .xlate ∧
    decode 0b00000000000000000000000000001001#32 = .ok .pget ∧
    decode 0b00000000000000000000000000001010#32 = .ok .pset := by decide

theorem test_decode_palette :
    decode 0b00000000000000000000000000010000#32 = .ok .palnum ∧
    decode 0b00000000000000000000000000010001#32 = .ok .palget ∧
    decode 0b00000000000000000000000000010010#32 = .ok .palfind := by decide

theorem test_decode_convert :
    decode 0b00000000000000000000000000100000#32 = .ok .cvtRgbGs ∧
    decode 0b00000000000000000000000000100001#32 = .ok .cvtGsRgb ∧
    decode 0b00000000000000000000000000100010#32 = .ok .cvtGsRgba ∧
    decode 0b00000000000000000000000000100011#32 = .ok .cvtRgbaRgb ∧
    decode 0b00000000000000000000000000100100#32 = .ok .cvtRgbaGsa ∧
    decode 0b00000000000000000000000000100101#32 = .ok .cvtGsaRgba ∧
    decode 0b00000000000000000000000000100110#32 = .ok .cvtBwGs ∧
    decode 0b00000000000000000000000000100111#32 = .ok .cvtGsBw := by decide

/-- 30_encoding R87, R88: the all-zero word, the neighbours of the defined opcodes, and `0x00000102`. -/
theorem test_decode_refuses :
    [0x00#32, 0x06#32, 0x07#32, 0x0B#32, 0x0F#32, 0x13#32, 0x1F#32, 0x28#32, 0xFF#32].map decode =
      List.replicate 9 (.error .reservedOpcode) ∧
    [0x00000102#32, 0x80000001#32].map decode = List.replicate 2 (.error .reservedBits) := by decide

theorem test_table_word : decodeTableWord 32 0x12 = some .palfind ∧ decodeTableWord 32 0x100 = none ∧
    decodeTableWord 8 0x12 = some .palfind := by decide

/-! ## The commands -/

/-- 41_format_codecs R182: five bytes of `RGB444` hold 3 elements; a reserved code faults with the code. -/
theorem test_numc : resultAfter .numc (buffer 0x0B [0, 0, 0, 0, 0]) = some 3 ∧
    statusAfter .numc (buffer 0x11 [0]) = some (0x21, 0x11) := by decide

/-- 41_format_codecs R183 and the document's scenarios S1, S2, S3; index 8 of an 8-element window is out of range. -/
theorem test_get :
    colorAfter .get { buffer 0x02 [0x01, 0x83] with arg0 := 7 } = some 0xAA ∧
    colorAfter .get { buffer 0x00 [1, 2, 0] with arg0 := 9 } = some 1 ∧
    colorAfter .get (buffer 0x0A [0x24]) = some 0x2424 ∧
    statusAfter .get { buffer 0x02 [0x01, 0x83] with arg0 := 8 } = some (0x51, 8) := by decide

/-- 42_indexed_codec R193: element 1 is slot 2, green; a two-entry palette has no slot 2. -/
theorem test_get_indexed :
    colorAfter .get { indexed with arg0 := 1 } = some 0xFF00FF00 ∧
    statusAfter .get { indexed with arg0 := 1, palLen := 8 } = some (0x61, 2) := by decide

/-- 41_format_codecs R184, R167, R168 and scenario S4. -/
theorem test_set :
    bytesAfter .set { buffer 0x0C [0, 0] with colorIn := 0x00FFFFFF } 2 = some [0xFF, 0xFF] ∧
    bytesAfter .set { buffer 0x0F [0, 0] with colorIn := 0x010000FF } 2 = some [0xF8, 0x01] ∧
    bytesAfter .set { buffer 0x0B [0x12, 0x34, 0x56] with arg0 := 1, colorIn := 0x00CCBBAA } 3 =
      some [0x12, 0x3A, 0xBC] := by decide

/-- 42_indexed_codec R194: white is slot 3; an absent colour is dropped with `NOMATCH`. -/
theorem test_set_indexed :
    bytesAfter .set { indexed with arg0 := 5, colorIn := 0xFFFFFFFF } 2 = some [0x1B, 0xEC] ∧
    bytesAfter .set { indexed with arg0 := 5, colorIn := 0x04030201 } 2 = some [0x1B, 0xE4] ∧
    statusAfter .set { indexed with arg0 := 5, colorIn := 0x04030201 } = some (2, 0) := by decide

/-- 43_buffer R212: five bytes of ones under `GSA22` and `RGB444` (the last nibble is owned by no element). -/
theorem test_init :
    bytesAfter .init (buffer 0x06 [0xFF, 0xFF, 0xFF, 0xFF, 0xFF]) 5 = some [0x33, 0x33, 0x33, 0x33, 0x33] ∧
    bytesAfter .init (buffer 0x0B [0xFF, 0xFF, 0xFF, 0xFF, 0xFF]) 5 = some [0, 0, 0, 0, 0x0F] := by decide

/-- 43_buffer R212: palette (red, black) gives `55 55`; without opaque black memory stays and `NOMATCH` is set. -/
theorem test_init_indexed :
    bytesAfter .init (withPalette (buffer 0x21 [0x1B, 0xE4]) 0x10 [255, 0, 0, 255, 0, 0, 0, 255]) 2 =
      some [0x55, 0x55] ∧
    bytesAfter .init (withPalette (buffer 0x21 [0x1B, 0xE4]) 0x10 [255, 0, 0, 255, 0, 0, 0, 128]) 2 =
      some [0x1B, 0xE4] ∧
    statusAfter .init (withPalette (buffer 0x21 [0x1B, 0xE4]) 0x10 [255, 0, 0, 255, 0, 0, 0, 128]) = some (2, 0) := by
  decide

/-- 43_buffer R211: the worked examples. -/
theorem test_capb :
    resultAfter .capb { buffer 0x0B [] with arg0 := 3 } = some 5 ∧
    resultAfter .capb { buffer 0x10 [] with arg0 := 0x3FFFFFFF } = some 0xFFFFFFFC ∧
    statusAfter .capb { buffer 0x10 [] with arg0 := 0x40000000 } = some (0x41, 0x40000000) := by decide

/-- 44_pixel_view R222: the worked examples. -/
theorem test_xlate :
    resultAfter .xlate { State.reset with viewW := 4, arg0 := 1, arg1 := 1 } = some 5 ∧
    resultAfter .xlate { State.reset with viewW := 0xFFFF, arg0 := 0xFFFF, arg1 := 0xFFFF } = some 0xFFFF0000 ∧
    statusAfter .xlate { State.reset with arg0 := 0x10000, arg1 := 0x20000 } = some (0x41, 0x10000) := by decide

/-- 44_pixel_view R223: an 8 by 3 glyph; no clipping; index 24 is out of range. -/
theorem test_pget :
    colorAfter .pget { buffer 0x00 [1, 2, 0] with viewW := 8, viewH := 3, arg0 := 1, arg1 := 1 } = some 1 ∧
    colorAfter .pget { buffer 0x00 [1, 2, 0] with viewW := 8, viewH := 3, arg0 := 9 } = some 1 ∧
    statusAfter .pget { buffer 0x00 [1, 2, 0] with viewW := 8, viewH := 3, arg1 := 3 } = some (0x51, 24) := by decide

/-- 44_pixel_view R224: the worked example. -/
theorem test_pset :
    bytesAfter .pset { buffer 0x04 [0x10, 0x20, 0x30, 0x40, 0x50, 0x60, 0x70, 0x80] with
      viewW := 4, viewH := 2, arg0 := 1, arg1 := 1, colorIn := 0xAB } 8 =
      some [0x10, 0x20, 0x30, 0x40, 0x50, 0xAB, 0x70, 0x80] := by decide

/-- 42_indexed_codec R195: sixteen bytes of `RGBA8888`; an indexed palette format faults. -/
theorem test_palnum : resultAfter .palnum indexed = some 4 ∧
    statusAfter .palnum { indexed with palFmt := 0x21 } = some (0x21, 0x21) := by decide

/-- 42_indexed_codec R196: entry 1 is red; entry 4 does not exist. -/
theorem test_palget : colorAfter .palget { indexed with arg0 := 1 } = some 0xFF0000FF ∧
    statusAfter .palget { indexed with arg0 := 4 } = some (0x61, 4) := by decide

/-- 42_indexed_codec R197: green is slot 2; an absent colour; white is slot 3, beyond the scan of `IDX1`. -/
theorem test_palfind :
    resultAfter .palfind { indexed with colorIn := 0xFF00FF00 } = some 2 ∧
    resultAfter .palfind { indexed with colorIn := 0x04030201 } = some 0xFFFFFFFF ∧
    statusAfter .palfind { indexed with colorIn := 0xFFFFFFFF, bufFmt := 0x20 } = some (2, 0) := by decide

/-- 30_encoding R93, R94: each lane of a word, and `BW{0}` from `0x00000002`. -/
theorem test_color_word :
    Color.fromWord .rgba 0x04030201 = .rgba 1 2 3 4 ∧ Color.fromWord .gsa 0x04030201 = .gsa 1 4 ∧
    (Color.rgba 1 2 3 4).toWord = 0x04030201 ∧ (Color.gsa 1 4).toWord = 0x04000001 ∧
    Color.fromWord .bw 0x00000002 = .bw false := by decide

/-- 40_color_conversions R120 to R127: the worked examples, under the default `PACK1_RULE`. -/
theorem test_convert :
    colorAfter .cvtRgbGs { State.reset with colorIn := 0x001F140A } = some 0x14 ∧
    colorAfter .cvtGsRgb { State.reset with colorIn := 0x00000055 } = some 0x00555555 ∧
    colorAfter .cvtGsRgba { State.reset with colorIn := 0x00000055 } = some 0xFF555555 ∧
    colorAfter .cvtRgbaRgb { State.reset with colorIn := 0x80332211 } = some 0x00332211 ∧
    colorAfter .cvtRgbaGsa { State.reset with colorIn := 0x801F140A } = some 0x80000014 ∧
    colorAfter .cvtGsaRgba { State.reset with colorIn := 0x40000077 } = some 0x40777777 ∧
    colorAfter .cvtBwGs { State.reset with colorIn := 0x000000FF } = some 0xFF ∧
    colorAfter .cvtGsBw { State.reset with colorIn := 0x00000001 } = some 1 := by decide

/-- 40_color_conversions R113 and 41_format_codecs R142 under the other readings: `MSB` packs 1 to 0, `HIGH_FIRST` puts
the even element in the high nibble. -/
theorem test_other_readings :
    colorAfter .cvtGsBw { State.reset with cfg := ⟨31, .msb, .lowFirst⟩, colorIn := 1 } = some 0 ∧
    colorAfter .get { buffer 0x03 [0x3A] with cfg := ⟨31, .nonzero, .highFirst⟩ } = some 0x33 ∧
    colorAfter .get (buffer 0x03 [0x3A]) = some 0xAA := by decide

/-! ## The host interface -/

/-- One step of a reset engine whose host does `act`. -/
def stepAct (s : State) (act : HostAction) : Option State := next? (step { s with program := [act] })

/-- 30_encoding R81: the examples of dropped bits, and the word `step` runs first. -/
theorem test_register_write :
    (stepAct State.reset (.regWrite 0x18 0xFFFFFFFF)).map (regValue · 0x18) = some 0x1FFFFFFF ∧
    (stepAct State.reset (.regWrite 0x2C 0x12345)).map (regValue · 0x2C) = some 0x2345 ∧
    next? (step (State.reset.withFetchWord 32 0x08)) = next? (exec .xlate State.reset) := by decide

/-- 10_state R44, R24: a faulted engine ignores a command and a register write; a write of 1 to `CTRL` clears it. -/
theorem test_frozen :
    (stepAct { State.reset with fault := true, cause := 5 } (.regWrite 0x08 0x20)).map (·.statusWord) = some 0x51 ∧
    (stepAct { State.reset with fault := true, cause := 5 } (.regWrite 0x34 7)).map (·.arg0) = some 0 ∧
    (stepAct { State.reset with fault := true, cause := 5 } (.regWrite 0x04 1)).map (·.statusWord) = some 0 := by
  decide

/-! ## Witnesses: for each statement with hypotheses, a state and operands that meet them, at the boundary values -/

/-- A reset engine whose host is about to do `act`. -/
def about (act : HostAction) : State := { State.reset with program := [act] }

/-- The same, faulted. -/
def faultedAbout (act : HostAction) : State := { about act with fault := true, cause := 5 }

theorem witness_DecodeEncodeAgree : Instr.wellFormed .palfind = true ∧ decode 0x12#32 = .ok .palfind := by decide

theorem witness_NineteenWords : decode 0x01#32 = .ok .numc ∧ decode 0x27#32 = .ok .cvtGsBw := by decide

/-- Each range of reserved opcodes at both ends, the first and the last word with a reserved bit. -/
theorem witness_IllegalWordFaults :
    (∀ w : Word, (about (.regWrite 0x08#8 w)).fault = false ∧
      (about (.regWrite 0x08#8 w)).program = .regWrite 0x08#8 w :: []) ∧
    (0x00#32).toNat = 0x00 ∧ (0x06#32).toNat = 0x06 ∧ (0x07#32).toNat = 0x07 ∧
    0x0B ≤ (0x0B#32).toNat ∧ (0x0B#32).toNat ≤ 0x0F ∧ 0x0B ≤ (0x0F#32).toNat ∧ (0x0F#32).toNat ≤ 0x0F ∧
    0x13 ≤ (0x13#32).toNat ∧ (0x13#32).toNat ≤ 0x1F ∧ 0x13 ≤ (0x1F#32).toNat ∧ (0x1F#32).toNat ≤ 0x1F ∧
    0x28 ≤ (0x28#32).toNat ∧ 0x28 ≤ (0xFF#32).toNat ∧ 256 ≤ (0x100#32).toNat ∧ 256 ≤ (0xFFFFFFFF#32).toNat :=
  ⟨fun _ => ⟨rfl, rfl⟩, by decide⟩

theorem witness_StepRunsCommand : (about (.regWrite 0x08#8 0x05#32)).fault = false ∧
    (about (.regWrite 0x08#8 0x05#32)).program = .regWrite 0x08#8 0x05#32 :: [] ∧ decode 0x05#32 = .ok .capb ∧
    Instr.wellFormed .capb = true := by decide

theorem witness_RefusedAndIdle : (0x01#8).toNat % 4 ≠ 0 ∧ (0xFF#8).toNat % 4 ≠ 0 ∧
    (about (.regWrite 0x01#8 0)).program = .regWrite 0x01#8 0 :: [] ∧
    (about (.regRead 0xFF#8)).program = .regRead 0xFF#8 :: [] ∧ State.reset.program = [] := by decide

/-- A write to `CMD`, a read of `STATUS`, a write at the last offset, and the reset that ends the fault. -/
theorem witness_FaultFreezes :
    (∀ act ∈ [HostAction.regWrite 0x08#8 1, .regWrite 0xFC#8 1, .regRead 0x0C#8, .regWrite 0x04#8 1],
      (faultedAbout act).fault = true ∧ (faultedAbout act).program = act :: [] ∧ act.isRegister = true) ∧
    (0x08#8).toNat % 4 = 0 ∧ (0x08#8) ≠ (0x04#8) ∧ (0x0C#8).toNat % 4 = 0 ∧
    (next? (step (faultedAbout (.regWrite 0x04#8 1)))).map (·.fault) = some false := by decide

theorem witness_CtrlResets :
    (faultedAbout (.regWrite 0x04#8 1)).program = .regWrite 0x04#8 1 :: [] ∧
    (about (.regWrite 0x04#8 2)).program = .regWrite 0x04#8 2 :: [] ∧
    (about (.regRead 0x04#8)).program = .regRead 0x04#8 :: [] ∧
    (faultedAbout (.regWrite 0xFC#8 1)).fault = true ∧ (0xFC#8).toNat % 4 = 0 ∧ (0xFC#8) ≠ (0x04#8) ∧
    (faultedAbout (.regWrite 0xFC#8 1)).program = .regWrite 0xFC#8 1 :: [] := by decide

theorem witness_ResetValues : State.reset = State.powerUp Config.standard [] ∧
    (∃ u : State, indexed.softReset = u.softReset ∧ u.cfg = Config.standard ∧ u.mem = indexed.mem) :=
  ⟨rfl, indexed, rfl, rfl, rfl⟩

/-- Every `RW` register, written with all ones. -/
theorem witness_WritableRegisters :
    ∀ e ∈ [(0x14#8, 2 ^ 32), (0x18#8, 2 ^ 29), (0x1C#8, 2 ^ 8), (0x20#8, 2 ^ 32), (0x24#8, 2 ^ 29), (0x28#8, 2 ^ 8),
        (0x2C#8, 2 ^ 16), (0x30#8, 2 ^ 16), (0x34#8, 2 ^ 32), (0x38#8, 2 ^ 32), (0x3C#8, 2 ^ 32)],
      (about (.regWrite e.1 0xFFFFFFFF#32)).fault = false ∧
      (about (.regWrite e.1 0xFFFFFFFF#32)).program = .regWrite e.1 0xFFFFFFFF#32 :: [] ∧
      State.reset.cfg.addrBits = 32 := by decide

theorem witness_IgnoredWritesAndZeroReads :
    (∀ off ∈ [0x00#8, 0x0C#8, 0x10#8, 0x40#8, 0x44#8, 0x48#8, 0xFC#8],
      off.toNat % 4 = 0 ∧ (about (.regWrite off 1)).program = .regWrite off 1 :: [] ∧
      (off ∈ [0x00#8, 0x0C#8, 0x10#8, 0x40#8, 0x44#8] ∨ 0x48 ≤ off.toNat)) ∧
    (∀ off ∈ [0x04#8, 0x08#8, 0x48#8, 0xFC#8],
      off.toNat % 4 = 0 ∧ (about (.regRead off)).program = .regRead off :: [] ∧
      (off = 0x04#8 ∨ off = 0x08#8 ∨ 0x48 ≤ off.toNat)) := by decide

theorem witness_ReadOnlyRegisters :
    (faultedAbout (.regRead 0x0C#8)).program = .regRead 0x0C#8 :: [] ∧
    (faultedAbout (.regRead 0x0C#8)).cause.toNat * 16 + (faultedAbout (.regRead 0x0C#8)).noMatch.toNat * 2 +
      (faultedAbout (.regRead 0x0C#8)).fault.toNat = 0x51 := by decide

/-- The last address of a one-bit address space, and the first beyond it. -/
theorem witness_HostMemoryAccess :
    ∀ act ∈ [HostAction.memWrite 1#32 7#8, .memRead 1#32, .memWrite 2#32 7#8, .memRead 2#32],
      State.program { about act with cfg := ⟨0, .nonzero, .lowFirst⟩ } = act :: [] ∧
      (1#32).toNat < 2 ^ Config.addrBits ⟨0, .nonzero, .lowFirst⟩ ∧
      2 ^ Config.addrBits ⟨0, .nonzero, .lowFirst⟩ ≤ (2#32).toNat := by decide

theorem witness_ScalingFormulas : (2, 85) ∈ scaleTable ∧ (5, 8) ∈ scaleTable ∧ (8, 1) ∈ scaleTable := by decide

theorem witness_ScalingRoundTrip : (1 ≤ 1 ∧ 1 ≤ 8) ∧ (1 ≤ 8 ∧ 8 ≤ 8) ∧ expand 5#5 = 40#8 := by decide

/-- A valid and a reserved buffer format; a fixed-depth, a reserved and an indexed palette format. -/
theorem witness_CountCommands : Format.ofCode indexed.bufFmt = some (.indexed .idx2) ∧
    Format.ofCode (buffer 0x24 []).bufFmt = none ∧ Format.ofCode indexed.palFmt = some (.fixed .rgba8888) ∧
    (∀ f, Format.ofCode 0x20#8 ≠ some (.fixed f)) ∧ ∀ f, Format.ofCode 0x11#8 ≠ some (.fixed f) := by
  refine ⟨by decide, by decide, by decide, fun f h => ?_, fun f h => ?_⟩ <;> cases h

/-- The largest element count whose byte length fits, and the next. -/
theorem witness_CapbBytes : Format.ofCode (buffer 0x10 []).bufFmt = some (.fixed .rgba8888) ∧
    Format.ofCode (buffer 0x11 []).bufFmt = none ∧ ((0x3FFFFFFF#32).toNat * 32 + 7) / 8 < 2 ^ 32 ∧
    2 ^ 32 ≤ ((0x40000000#32).toNat * 32 + 7) / 8 := by decide

/-- Both coordinates at their bound; `x` one past it; `y` one past it. -/
theorem witness_XlateIndex : State.PointFits { State.reset with arg0 := 0xFFFF, arg1 := 0xFFFF } ∧
    2 ^ 16 ≤ (State.arg0 { State.reset with arg0 := 0x10000 }).toNat ∧
    (State.arg0 { State.reset with arg0 := 0xFFFF, arg1 := 0x10000 }).toNat < 2 ^ 16 ∧
    2 ^ 16 ≤ (State.arg1 { State.reset with arg0 := 0xFFFF, arg1 := 0x10000 }).toNat := by decide

theorem witness_DecodeRgb : 0 % 2 = 0 ∧ 1 % 2 = 1 := by decide

theorem witness_EncodeRgb : 2 % 2 = 0 ∧ 3 % 2 = 1 := by decide

theorem witness_SubByteFields : ∀ e ∈ [(1, 7), (2, 6), (4, 4), (8, 0)],
    e ∈ [(1, 7 % 8), (2, 7 % 4 * 2), (4, nibbleShift Config.standard 7), (8, 0)] := by decide

/-- Two elements of `RGB444` share their middle byte, and each owns a bit of it. -/
theorem witness_FootprintsFit : 0 ≠ 1 ∧
    ownsBitAt ((Format.fixed .rgb444).footprint Config.standard 0) 0 1 7 ∧
    touches ((Format.fixed .rgb444).footprint Config.standard 0) 0 1 ∧
    touches ((Format.fixed .rgb444).footprint Config.standard 1) 0 1 :=
  ⟨by decide, ⟨1, 0xF0#8, rfl, by decide, by decide⟩, ⟨1, 0xF0#8, rfl, by decide⟩, ⟨1, 0x0F#8, rfl, by decide⟩⟩

/-- An owned and an unowned bit of an `RGB444` element; memories that agree. -/
theorem witness_OwnedBitsOnly : (Color.rgb 1 2 3).type = FixedFormat.rgb444.ctype ∧
    ownsBitAt (footprint Config.standard .rgb444 0) 0 1 7 ∧ ¬ ownsBitAt (footprint Config.standard .rgb444 0) 0 1 3 := by
  refine ⟨rfl, ⟨1, 0xF0#8, rfl, by decide, by decide⟩, ?_⟩
  rintro ⟨k, mask, hk, hm, hb⟩
  simp [footprint] at hm
  rcases hm with ⟨rfl, -⟩ | ⟨rfl, rfl⟩
  · exact absurd hk (by decide)
  · exact absurd hb (by decide)

/-- An eight-element `GS2` window, looked at through a view of width 4. -/
def gray : State := { buffer 0x02 [0x01, 0x83] with viewW := 4 }

/-- The last element, and the first. -/
theorem witness_GetFixed :
    State.OpensFixed { gray with arg0 := 7 } .gs2 ∧ (7#32).toNat < State.elements { gray with arg0 := 7 } 2 ∧
    gray.OpensFixed .gs2 ∧ gray.arg0.toNat = 0 := by decide

/-- Slot 3 of four entries, and of a palette of three. -/
theorem witness_GetIndexed :
    State.OpensIndexed { indexed with arg0 := 7 } .idx2 .rgba8888 ∧
    (7#32).toNat < State.elements { indexed with arg0 := 7 } 2 ∧
    (fieldGet indexed.cfg indexed.mem 0x100 7 2).toNat = 3 ∧ indexed.entries 32 = 4 ∧
    State.OpensIndexed { indexed with arg0 := 7, palLen := 12 } .idx2 .rgba8888 ∧
    State.entries { indexed with palLen := 12 } 32 = 3 := by decide

/-- The last element, by a point inside the view and by one outside it. -/
theorem witness_PgetFixed :
    State.OpensFixed { gray with arg0 := 3, arg1 := 1 } .gs2 ∧ State.PointFits { gray with arg0 := 3, arg1 := 1 } ∧
    State.pointIndex { gray with arg0 := 3, arg1 := 1 } = 7 ∧ 7 < gray.elements 2 ∧
    State.OpensFixed { gray with arg0 := 7 } .gs2 ∧ State.PointFits { gray with arg0 := 7 } ∧
    State.pointIndex { gray with arg0 := 7 } = 7 := by decide

theorem witness_PgetIndexed :
    State.OpensIndexed { indexed with viewW := 4, arg0 := 3, arg1 := 1 } .idx2 .rgba8888 ∧
    State.PointFits { indexed with viewW := 4, arg0 := 3, arg1 := 1 } ∧
    State.pointIndex { indexed with viewW := 4, arg0 := 3, arg1 := 1 } = 7 ∧ 7 < indexed.elements 2 ∧
    (fieldGet indexed.cfg indexed.mem 0x100 7 2).toNat = 3 ∧ indexed.entries 32 = 4 ∧
    State.OpensIndexed { indexed with viewW := 4, arg0 := 3, arg1 := 1, palLen := 12 } .idx2 .rgba8888 ∧
    State.entries { indexed with palLen := 12 } 32 = 3 := by decide

theorem witness_SetFixed : State.OpensFixed { gray with arg0 := 7, colorIn := 200 } .gs2 ∧
    (7#32).toNat < State.elements { gray with arg0 := 7, colorIn := 200 } 2 := by decide

theorem witness_PsetFixed : State.OpensFixed { gray with arg0 := 3, arg1 := 1, colorIn := 200 } .gs2 ∧
    State.PointFits { gray with arg0 := 3, arg1 := 1, colorIn := 200 } ∧
    State.pointIndex { gray with arg0 := 3, arg1 := 1, colorIn := 200 } < gray.elements 2 := by decide

/-- White in the highest slot, and a colour in none. -/
theorem witness_SetIndexed :
    State.OpensIndexed { indexed with arg0 := 7 } .idx2 .rgba8888 ∧ (7#32).toNat < indexed.elements 2 ∧
    State.LowestSlot { indexed with arg0 := 7, colorIn := 0xFFFFFFFF } .idx2 .rgba8888
      (Color.fromWord .rgba 0xFFFFFFFF) 3 ∧
    State.NoSlot { indexed with arg0 := 7, colorIn := 0x04030201 } .idx2 .rgba8888
      (Color.fromWord .rgba 0x04030201) := by decide

theorem witness_PsetIndexed :
    State.OpensIndexed { indexed with viewW := 4, arg0 := 3, arg1 := 1 } .idx2 .rgba8888 ∧
    State.PointFits { indexed with viewW := 4, arg0 := 3, arg1 := 1 } ∧
    State.pointIndex { indexed with viewW := 4, arg0 := 3, arg1 := 1 } < indexed.elements 2 ∧
    State.LowestSlot { indexed with viewW := 4, arg0 := 3, arg1 := 1, colorIn := 0xFFFFFFFF } .idx2 .rgba8888
      (Color.fromWord .rgba 0xFFFFFFFF) 3 ∧
    State.NoSlot { indexed with viewW := 4, arg0 := 3, arg1 := 1, colorIn := 0x04030201 } .idx2 .rgba8888
      (Color.fromWord .rgba 0x04030201) := by decide

/-- `RGB565` can express (248, 252, 8). -/
theorem witness_SetThenGet : State.OpensFixed { buffer 0x0C [0, 0] with colorIn := 0x0008FCF8 } .rgb565 ∧
    (0#32).toNat < State.elements { buffer 0x0C [0, 0] with colorIn := 0x0008FCF8 } 16 ∧
    Expressible .rgb565 (Color.fromWord .rgb 0x0008FCF8) :=
  ⟨by decide, by decide, rfl, .cons ⟨31, by decide⟩ (.cons ⟨63, by decide⟩ (.cons ⟨1, by decide⟩ .nil))⟩

theorem witness_SetKeepsNeighbours : gray.OpensFixed .gs2 ∧ (∃ t, exec .set gray = .next t) ∧ 7 ≠ gray.arg0.toNat ∧
    indexed.OpensIndexed .idx2 .rgba8888 ∧ (∃ t, exec .set indexed = .next t) ∧ 7 ≠ indexed.arg0.toNat :=
  ⟨by decide, ⟨_, rfl⟩, by decide, by decide, ⟨_, rfl⟩, by decide⟩

theorem witness_IndexedSetThenGet :
    State.OpensIndexed { indexed with arg0 := 7, colorIn := 0xFF00FF00 } .idx2 .rgba8888 ∧
    (7#32).toNat < indexed.elements 2 ∧
    State.LowestSlot { indexed with arg0 := 7, colorIn := 0xFF00FF00 } .idx2 .rgba8888
      (Color.fromWord .rgba 0xFF00FF00) 2 ∧
    indexed.bufBase.toNat + indexed.bufLen.toNat ≤ indexed.palBase.toNat := by decide

/-- The last entry and one past it; a window past the top of memory; a format that cannot be used. -/
theorem witness_PalgetReads : State.OpensPalette { indexed with arg0 := 3 } .rgba8888 ∧
    (3#32).toNat < State.entries { indexed with arg0 := 3 } 32 ∧
    State.OpensPalette { indexed with arg0 := 4 } .rgba8888 ∧
    State.entries { indexed with arg0 := 4 } 32 ≤ (4#32).toNat ∧
    Format.ofCode (State.palFmt { indexed with palBase := 0xFFFFFFF1 }) = some (.fixed .rgba8888) ∧
    ¬ State.PaletteFits { indexed with palBase := 0xFFFFFFF1 } ∧
    State.PaletteFits { indexed with palBase := 0xFFFFFFF0 } ∧
    ∀ pf, Format.ofCode (State.palFmt { indexed with palFmt := 0x23 }) ≠ some (.fixed pf) := by
  refine ⟨by decide, by decide, by decide, by decide, by decide, by decide, by decide, fun pf h => ?_⟩
  cases h

theorem witness_PalfindScans : indexed.OpensIndexed .idx2 .rgba8888 ∧
    State.LowestSlot { indexed with colorIn := 0xFF00FF00 } .idx2 .rgba8888 (Color.fromWord .rgba 0xFF00FF00) 2 ∧
    State.NoSlot { indexed with colorIn := 0x04030201 } .idx2 .rgba8888 (Color.fromWord .rgba 0x04030201) ∧
    ¬ State.PaletteFits { indexed with palBase := 0xFFFFFFF1 } ∧
    (∀ pf, Format.ofCode (State.palFmt { indexed with palFmt := 0x20 }) ≠ some (.fixed pf)) ∧
    (∀ x, Format.ofCode (State.bufFmt { indexed with bufFmt := 0x10 }) ≠ some (.indexed x)) ∧
    ∃ t, exec .palfind { indexed with colorIn := 0xFF00FF00 } = .next t ∧ t.noMatch = false := by
  refine ⟨by decide, by decide, by decide, by decide, fun pf h => ?_, fun x h => ?_, _, rfl, rfl⟩ <;> cases h

theorem witness_InitFixed : gray.OpensFixed .gs2 ∧ 7 < gray.elements 2 := by decide

/-- The default colour is slot 0; under a palette without it there is no slot; the windows do not overlap. -/
theorem witness_InitIndexed : indexed.OpensIndexed .idx2 .rgba8888 ∧
    indexed.bufBase.toNat + indexed.bufLen.toNat ≤ indexed.palBase.toNat ∧
    State.LowestSlot indexed .idx2 .rgba8888 (defaultColor .rgba) 0 ∧
    State.OpensIndexed { indexed with palBase := 0x204 } .idx2 .rgba8888 ∧
    State.NoSlot { indexed with palBase := 0x204 } .idx2 .rgba8888 (defaultColor .rgba) := by decide

theorem witness_InitIsAscendingSets : gray.OpensFixed .gs2 ∧ 2 = FixedFormat.gs2.bpp ∧
    indexed.OpensIndexed .idx2 .rgba8888 ∧ 2 = IndexedFormat.idx2.bits ∧ 7 < indexed.elements 2 := by decide

/-- A command with a test that fires, and one with none. -/
theorem witness_FirstFaultDecides : (firstFault .get State.reset).map (·.code) = some 5 ∧
    firstFault .numc State.reset = none := by decide

theorem witness_FaultsArePrecise : ∃ t, exec .get State.reset = .next t ∧ State.reset.fault = false ∧ t.fault = true :=
  ⟨_, rfl, rfl, rfl⟩

theorem witness_CommandFrame : (∃ t, exec .set gray = .next t) ∧ (∃ t, exec .cvtGsBw gray = .next t) ∧
    Instr.set ∈ [Instr.numc, .set, .init, .capb, .xlate, .pset, .palnum, .palfind] ∧
    Instr.cvtGsBw ∉ [Instr.set, .init, .pset] := ⟨⟨_, rfl⟩, ⟨_, rfl⟩, by decide, by decide⟩

theorem witness_NoMatchRewritten : firstFault .get State.reset ≠ none ∧ firstFault .numc State.reset = none ∧
    Instr.numc ∉ [Instr.set, .pset, .init, .palfind] ∧ firstFault .set gray = none ∧ Instr.set ≠ .palfind ∧
    codeIndexed gray.bufFmt = false := by decide

theorem witness_WritesStayInWindow : ∃ t, exec .set { gray with colorIn := 200 } = .next t ∧
    t.mem.read 0x100 ≠ gray.mem.read 0x100 := ⟨_, rfl, by decide⟩

/-- A memory that differs from the buffer's outside both windows; a command that touches none. -/
theorem witness_ReadsStayInWindows : (∃ m : Memory, m ≠ gray.mem ∧
    (∀ a : Nat, ((gray.bufBase.toNat ≤ a ∧ a < gray.bufBase.toNat + gray.bufLen.toNat) ∨
      (gray.palBase.toNat ≤ a ∧ a < gray.palBase.toNat + gray.palLen.toNat)) → m.read a = gray.mem.read a)) ∧
    (∃ t, exec .get gray = .next t) ∧ (∃ t, exec .numc gray = .next t) := by
  refine ⟨⟨gray.mem.write 0x300 7, by decide, fun a ha => ?_⟩, ⟨_, rfl⟩, ⟨_, rfl⟩⟩
  have h1 : gray.bufBase.toNat = 0x100 := by decide
  have h2 : gray.bufLen.toNat = 2 := by decide
  have h3 : gray.palBase.toNat = 0 := by decide
  have h4 : gray.palLen.toNat = 0 := by decide
  have : a = 0x100 ∨ a = 0x101 := by omega
  rcases this with rfl | rfl <;> decide

theorem witness_ViewHeightNeverRead : ∃ t, exec .pget gray = .next t := ⟨_, rfl⟩

theorem witness_PaletteUnreadWhenFixed : Instr.init ∈ [Instr.get, .set, .init, .pget, .pset] ∧
    Format.ofCode gray.bufFmt = some (.fixed .gs2) ∧ ∃ t, exec .init gray = .next t := ⟨by decide, by decide, _, rfl⟩

theorem witness_StepKeepsInvariant : ∃ s t : State, s.Inv ∧ step s = .next t ∧ s.program ≠ [] :=
  ⟨{ gray with program := [.regWrite 0x08#8 4#32] }, _, by decide, rfl, by decide⟩

theorem witness_ResetHasInvariant : Memory.wf (load 0 [1, 2] []) = true ∧
    Memory.below (load 0 [1, 2] []) (Config.memSize ⟨0, .msb, .highFirst⟩) = true := by decide

/-- For each kind of operand type (none, of the buffer, of the palette, of a conversion), words that differ outside its
lanes and agree on them; a command of each kind that produces a colour, and does not fault. -/
theorem witness_ColorWordLanes :
    operandType .get gray = none ∧ (∃ t, exec .get gray = .next t) ∧
    operandType .set gray = some .gs ∧ 0xFFFFFF00#32 &&& laneBits .gs = gray.colorIn &&& laneBits .gs ∧
    (∃ t, exec .set gray = .next t) ∧
    operandType .pset indexed = some .rgba ∧ 0#32 &&& laneBits .rgba = indexed.colorIn &&& laneBits .rgba ∧
    (∃ t, exec .pset indexed = .next t) ∧
    operandType .palfind indexed = some .rgba ∧ (∃ t, exec .palfind indexed = .next t) ∧
    operandType .cvtBwGs State.reset = some .bw ∧
    0xFFFFFFFE#32 &&& laneBits .bw = State.reset.colorIn &&& laneBits .bw ∧
    resultType .get gray = some .gs ∧ (∃ t, exec .get gray = .next t ∧ t.fault = false) ∧
    resultType .palget indexed = some .rgba ∧ (∃ t, exec .palget indexed = .next t ∧ t.fault = false) ∧
    resultType .cvtRgbaGsa State.reset = some .gsa ∧
    (∃ t, exec .cvtRgbaGsa State.reset = .next t ∧ t.fault = false) := by
  refine ⟨by decide, ⟨_, rfl⟩, by decide, by decide, ⟨_, rfl⟩, by decide, by decide, ⟨_, rfl⟩, by decide, ⟨_, rfl⟩,
    by decide, by decide, by decide, ⟨_, rfl, by decide⟩, by decide, ⟨_, rfl, by decide⟩, by decide,
    ⟨_, rfl, by decide⟩⟩

end Sys2Proof.Tests
end

section
/-! PROOFS. The statements of 10_state: the fault freeze (R44), the write to `CTRL` (R24), the reset values (R45). -/

namespace Sys2Proof.Machine

/-! ## Register transactions (30_encoding R80, R81) -/

/-- The reset bit of `CTRL` as arithmetic on the written word (10_state R24). -/
theorem ctrlWrite_eq_ite (w : Word) (s : State) : ctrlWrite w s = if w.toNat % 2 = 1 then s.softReset else s := by
  simp [ctrlWrite, BitVec.getLsbD, Nat.testBit_zero]

section
variable {run : Instr → State → Host.Outcome State Fault Refusal} {s t : State} {act : HostAction} {off : BitVec 8}
  {w : Word} {rest : List HostAction}

theorem regWrite_of_faulted (hf : s.fault = true) (ha : offsetAligned off = true) (hne : off ≠ Reg.ctrl.offset) :
    regWrite run off w s = .next s := by
  cases hr : Reg.ofOffset off with
  | none => exact regWrite_reserved w s ha hr
  | some r =>
    obtain rfl := Reg.eq_offset_of_ofOffset hr
    exact regWrite_faulted w hf fun hc => hne (congrArg Reg.offset hc)

/-- Everything a host action can do to a faulted engine, however commands are run: the reset through `CTRL`, or an
action that leaves it faulted and, if it is a register transaction, leaves `MEM` as it was (10_state R44). -/
theorem perform_cases_of_faulted (hf : s.fault = true) (ht : perform run act s = .next t) :
    (∃ w : Word, act = .regWrite Reg.ctrl.offset w ∧ w.toNat % 2 = 1 ∧ t = s.softReset) ∨
    (t.fault = true ∧ (act.isRegister = true → t.mem = s.mem)) := by
  cases act with
  | regWrite off w =>
    simp only [perform] at ht
    cases ha : offsetAligned off with
    | false => simp [regWrite_unaligned w s ha] at ht
    | true =>
      by_cases hc : off = Reg.ctrl.offset
      · subst hc
        rw [regWrite_ctrl, ctrlWrite_eq_ite] at ht
        split at ht <;> cases ht
        · next hodd => exact Or.inl ⟨w, rfl, hodd, rfl⟩
        · exact Or.inr ⟨hf, fun _ => rfl⟩
      · rw [regWrite_of_faulted hf ha hc] at ht
        cases ht
        exact Or.inr ⟨hf, fun _ => rfl⟩
  | regRead off =>
    rcases regRead_cases off s with ⟨-, he⟩ | ⟨-, he⟩ <;> cases he.symm.trans ht
    exact Or.inr ⟨hf, fun _ => rfl⟩
  | memWrite a v =>
    rcases hostMemWrite_cases a v s with ⟨-, he⟩ | ⟨-, he⟩ <;> cases he.symm.trans ht
    exact Or.inr ⟨hf, nofun⟩
  | memRead a =>
    rcases hostMemRead_cases a s with ⟨-, he⟩ | ⟨-, he⟩ <;> cases he.symm.trans ht
    exact Or.inr ⟨hf, nofun⟩

theorem step_regWrite_of_faulted (hf : s.fault = true) (ha : off.toNat % 4 = 0) (hne : off ≠ Reg.ctrl.offset)
    (hp : s.program = .regWrite off w :: rest) : step s = .next { s with program := rest } := by
  rw [step_cons hp]
  exact regWrite_of_faulted hf ((offsetAligned_iff off).2 ha) hne

theorem step_regWrite_ctrl (hp : s.program = .regWrite Reg.ctrl.offset w :: rest) :
    step s = .next (ctrlWrite w { s with program := rest }) := by
  rw [step_cons hp, perform, regWrite_ctrl]

theorem step_regRead (ha : off.toNat % 4 = 0) (hp : s.program = .regRead off :: rest) :
    step s = .next { s with program := rest, observed := s.observed ++ [.reg (regValue s off)] } := by
  rw [step_cons hp]
  exact if_pos ((offsetAligned_iff off).2 ha)

end

/-! ## Commands on an index at or beyond the element count (60_exceptions R247) -/

section
variable {s : State} {b : BufferCodec}

theorem setColor_of_ge {i : Nat} (col : Color) (h : bufferCount s b ≤ i) :
    setColor s b i col = .error (.indexOob i) := by
  simp [setColor, h]

theorem exec_get_of_count_le (ho : openBuffer s = .ok b) (hi : bufferCount s b ≤ s.arg0.toNat) :
    exec .get s = .next (s.raise (.indexOob s.arg0.toNat)) := by
  simp [exec, execGet, ho, getColor_of_ge hi]

theorem exec_set_of_count_le (ho : openBuffer s = .ok b) (hi : bufferCount s b ≤ s.arg0.toNat) :
    exec .set s = .next (s.raise (.indexOob s.arg0.toNat)) := by
  simp [exec, execSet, ho, setColor_of_ge _ hi]

theorem exec_pget_of_count_le (ho : openBuffer s = .ok b) (hp : checkPoint s = .ok ())
    (hi : bufferCount s b ≤ viewIndex s) : exec .pget s = .next (s.raise (.indexOob (viewIndex s))) := by
  simp [exec, execPget, ho, hp, getColor_of_ge hi]

theorem exec_pset_of_count_le (ho : openBuffer s = .ok b) (hp : checkPoint s = .ok ())
    (hi : bufferCount s b ≤ viewIndex s) : exec .pset s = .next (s.raise (.indexOob (viewIndex s))) := by
  simp [exec, execPset, ho, hp, setColor_of_ge _ hi]

end

/-! ## The engine after a reset (10_state R45) -/

section
variable (u : State)

theorem State.softReset_powerUp (c : Config) (m : Memory) : (State.powerUp c m).softReset = State.powerUp c m := rfl

theorem State.statusWord_softReset : u.softReset.statusWord = 0 := by
  simp [State.statusWord, join]

theorem State.readReg_softReset {r : Reg} (hr : r ≠ .id) : u.softReset.readReg r = 0 := by
  cases r with
  | id => exact absurd rfl hr
  | status => exact u.statusWord_softReset
  | _ => rfl

theorem regValue_softReset {off : BitVec 8} (hne : off ≠ Reg.id.offset) : regValue u.softReset off = 0 := by
  cases hr : Reg.ofOffset off with
  | none => simp [regValue, hr]
  | some r =>
    obtain rfl := Reg.eq_offset_of_ofOffset hr
    simpa [regValue] using u.readReg_softReset fun hid => hne (congrArg Reg.offset hid)

/-- `BUF_FMT` 0 is `BW1` and the empty window at 0 fits, so element access passes its opening checks after a reset. -/
theorem openBuffer_softReset : openBuffer u.softReset = .ok (.fixed .bw1) :=
  openBuffer_fixed rfl (Nat.zero_le _)

theorem bufferCount_softReset (b : BufferCodec) : bufferCount u.softReset b = 0 := by
  simp [bufferCount, count]

theorem checkPoint_softReset : checkPoint u.softReset = .ok () := by
  simp [checkPoint]

theorem viewIndex_softReset : viewIndex u.softReset = 0 := by
  simp [viewIndex]

theorem exec_numc_softReset : exec .numc u.softReset = .next (u.softReset.putResult 0 false) := by
  have hc : checkFmtBuf u.softReset = .ok (.fixed .bw1) := rfl
  simp [exec, execNumc, hc, count, pure, Except.pure]

/-- The buffer holds no element after a reset, so index 0 is out of bounds for each of the four element accesses. -/
theorem exec_element_access_softReset {i : Instr} (hi : i = .get ∨ i = .set ∨ i = .pget ∨ i = .pset) :
    exec i u.softReset = .next (u.softReset.raise (.indexOob 0)) := by
  have ho := openBuffer_softReset u
  have hp := checkPoint_softReset u
  have hn (k : Nat) : bufferCount u.softReset (.fixed .bw1) ≤ k := (bufferCount_softReset u _).trans_le k.zero_le
  rcases hi with rfl | rfl | rfl | rfl
  · exact exec_get_of_count_le ho (hn _)
  · exact exec_set_of_count_le ho (hn _)
  · rw [exec_pget_of_count_le ho hp (hn _), viewIndex_softReset]
  · rw [exec_pset_of_count_le ho hp (hn _), viewIndex_softReset]

end

/-! ## The statements -/

/-- Settles O7: the ignored write and the read by their step lemmas, the rest by what a host action can do to a faulted
engine. -/
theorem faultFreezes : Obligations.FaultFreezes := by
  intro s act rest hf hp
  have hcases {t : State} (ht : step s = .next t) :=
    perform_cases_of_faulted (s := { s with program := rest }) hf ((step_cons hp).symm.trans ht)
  refine ⟨?write, ?read, ?memory, ?leave⟩
  case write =>
    rintro off w rfl ha hne
    exact step_regWrite_of_faulted hf ha hne hp
  case read =>
    rintro off rfl ha
    exact step_regRead ha hp
  case memory =>
    intro t ht hreg
    rcases hcases ht with ⟨w, -, -, rfl⟩ | ⟨-, hmem⟩
    · rfl
    · exact hmem hreg
  case leave =>
    intro t ht hclear
    rcases hcases ht with ⟨w, hact, hodd, rfl⟩ | ⟨hfault, -⟩
    · exact ⟨⟨w, hact, hodd⟩, rfl⟩
    · simp [hfault] at hclear

/-- Settles O8: a write to `CTRL` looks at bit 0 alone, never at `FAULT`, and its soft reset is a hardware reset that
keeps the parameters, `MEM` and the host's record. -/
theorem ctrlResets : Obligations.CtrlResets := by
  intro s rest
  refine ⟨?write, ?read, ?frozen⟩
  case write =>
    intro w hp
    rw [step_regWrite_ctrl hp, ctrlWrite_eq_ite]
    rfl
  case read => exact step_regRead (by decide)
  case frozen =>
    intro off w hf ha hne hp
    exact step_regWrite_of_faulted hf ha hne hp

/-- Settles O9: a hardware reset is a state that a soft reset leaves as it is, so both kinds are soft resets of some
state, and the reads and commands follow from the registers it leaves. -/
theorem resetValues : Obligations.ResetValues := by
  intro c m s hs
  have hsoft : ∃ u : State, s = u.softReset ∧ u.cfg = c ∧ u.mem = m := by
    rcases hs with rfl | hu
    · exact ⟨State.powerUp c m, (State.softReset_powerUp c m).symm, rfl, rfl⟩
    · exact hu
  obtain ⟨u, rfl, hcfg, hmem⟩ := hsoft
  exact ⟨hcfg, hmem, rfl, fun _ => regValue_softReset u, rfl, rfl, rfl, exec_numc_softReset u,
    fun _ => exec_element_access_softReset u⟩

end Sys2Proof.Machine
end

section
/-! PROOFS. The statements of 30_encoding: the words that decode (R89), the colour word (R93, R94). -/

namespace Sys2Proof

/-! ## The command words (30_encoding R82, R86 to R89) -/

/-- The rows of Table 30-2, in its order. -/
def Instr.all : List Instr :=
  [.numc, .get, .set, .init, .capb, .xlate, .pget, .pset, .palnum, .palget, .palfind, .cvtRgbGs, .cvtGsRgb,
    .cvtGsRgba, .cvtRgbaRgb, .cvtRgbaGsa, .cvtGsaRgba, .cvtBwGs, .cvtGsBw]

theorem Instr.mem_all (i : Instr) : i ∈ Instr.all := by cases i <;> decide

theorem decode_encode (i : Instr) : decode (encode i) = .ok i := by cases i <;> rfl

theorem opcode_eq_of_decodeOpcode {opc : BitVec 8} {i : Instr} (h : decodeOpcode opc = .ok i) : i.opcode = opc := by
  unfold decodeOpcode at h
  split at h <;> cases h <;> rfl

/-- A word whose reserved bits are clear is its low byte. -/
theorem setWidth_lowByte {w : Word} (h : w.extractLsb' 8 24 = 0#24) : (w.extractLsb' 0 8).setWidth 32 = w := by
  have hhigh : w.toNat / 2 ^ 8 % 2 ^ 24 = 0 := by simpa [Nat.shiftRight_eq_div_pow] using congrArg BitVec.toNat h
  apply BitVec.eq_of_toNat_eq
  rw [BitVec.toNat_setWidth, BitVec.extractLsb'_toNat, Nat.shiftRight_zero]
  omega

theorem encode_of_decode {w : Word} {i : Instr} (h : decode w = .ok i) : encode i = w := by
  unfold decode at h
  split at h
  · next hhigh => rw [encode, opcode_eq_of_decodeOpcode h, setWidth_lowByte hhigh]
  · cases h

theorem encode_injective : Function.Injective encode := fun i j h => by
  have hi := decode_encode i
  rw [h, decode_encode j] at hi
  injection hi with hji
  exact hji.symm

theorem decodes_iff_mem_map_encode (w : Word) : (∃ i, decode w = .ok i) ↔ w ∈ Instr.all.map encode := by
  rw [List.mem_map]
  constructor
  · rintro ⟨i, hi⟩
    exact ⟨i, i.mem_all, encode_of_decode hi⟩
  · rintro ⟨i, -, rfl⟩
    exact ⟨i, decode_encode i⟩

/-- Settles O3: the 19 words are the words of the 19 commands, and a word that decodes is the word of its command. -/
theorem nineteenWords : Obligations.NineteenWords :=
  ⟨⟨Instr.all.map encode, rfl, (by decide : Instr.all.Nodup).map encode_injective, decodes_iff_mem_map_encode⟩,
    fun _ _ _ h h' => (encode_of_decode h).symm.trans (encode_of_decode h')⟩

end Sys2Proof

namespace Sys2Proof.Machine

/-! ## The colour word as arithmetic (30_encoding R93, Table 30-4) -/

theorem lane_eq_ofNat (k : Nat) (w : Word) : lane k w = BitVec.ofNat 8 (w.toNat / 2 ^ (8 * k) % 256) :=
  BitVec.eq_of_toNat_eq (by simp [lane_toNat])

/-- The top lane needs no reduction: nothing of a word lies above it. -/
theorem fromWord_eq_ofNat (w : Word) :
    let l0 := BitVec.ofNat 8 (w.toNat % 256)
    let l1 := BitVec.ofNat 8 (w.toNat / 2 ^ 8 % 256)
    let l2 := BitVec.ofNat 8 (w.toNat / 2 ^ 16 % 256)
    let l3 := BitVec.ofNat 8 (w.toNat / 2 ^ 24)
    Color.fromWord .bw w = .bw (decide (w.toNat % 2 = 1)) ∧
    Color.fromWord .gs w = .gs l0 ∧
    Color.fromWord .gsa w = .gsa l0 l3 ∧
    Color.fromWord .rgb w = .rgb l0 l1 l2 ∧
    Color.fromWord .rgba w = .rgba l0 l1 l2 l3 := by
  have htop : w.toNat / 16777216 % 256 = w.toNat / 16777216 := Nat.mod_eq_of_lt (by omega)
  simp [Color.fromWord, lane_eq_ofNat, htop, BitVec.getLsbD, Nat.testBit_zero]

theorem toWord_toNat (bit : Bool) (v a r g b : Byte) :
    (Color.bw bit).toWord.toNat = bit.toNat ∧
    (Color.gs v).toWord.toNat = v.toNat ∧
    (Color.gsa v a).toWord.toNat = a.toNat * 2 ^ 24 + v.toNat ∧
    (Color.rgb r g b).toWord.toNat = b.toNat * 2 ^ 16 + g.toNat * 2 ^ 8 + r.toNat ∧
    (Color.rgba r g b a).toWord.toNat = a.toNat * 2 ^ 24 + b.toNat * 2 ^ 16 + g.toNat * 2 ^ 8 + r.toNat := by
  cases bit <;> simp [Color.toWord]

/-- A word is its four lanes. -/
theorem colorWord_lanes (w : Word) : colorWord (lane 3 w) (lane 2 w) (lane 1 w) (lane 0 w) = w := by
  apply BitVec.eq_of_toNat_eq
  simp only [colorWord_toNat, lane_toNat]
  omega

theorem lane_and (k : Nat) (w v : Word) : lane k (w &&& v) = lane k w &&& lane k v := BitVec.extractLsb'_and

theorem byte_and_one (b : Byte) : b &&& 1#8 = if b.getLsbD 0 then 1 else 0 := by
  rw [BitVec.and_one_eq_setWidth_ofBool_getLsbD]
  cases b.getLsbD 0 <;> rfl

/-- Reading a word and producing it again keeps the bits its type lists and clears the others. -/
theorem toWord_fromWord (t : ColorType) (w : Word) : (Color.fromWord t w).toWord = w &&& laneBits t := by
  have ones (b : Byte) : b &&& 255#8 = b := BitVec.and_allOnes
  rw [← colorWord_lanes (w &&& laneBits t)]
  simp only [lane_and]
  cases t <;> simp [Color.fromWord, Color.toWord, laneBits, lane, ones, byte_and_one]

/-- The word a colour is produced as has no bit outside the lanes of its type (30_encoding R94). -/
theorem toWord_and_laneBits (c : Color) : c.toWord &&& laneBits c.type = c.toWord := by
  rw [← toWord_fromWord, Color.fromWord_toWord]

/-! ## Conversions as functions of a colour (40_color_conversions R120 to R127) -/

/-- The colour a conversion command makes of its operand; a colour of another type, and any other command, leave it. -/
def convert (p : Pack1Rule) : Instr → Color → Color
  | .cvtRgbGs, .rgb r g b => .gs (average r g b)
  | .cvtGsRgb, .gs v => .rgb v v v
  | .cvtGsRgba, .gs v => .rgba v v v 255
  | .cvtRgbaRgb, .rgba r g b _ => .rgb r g b
  | .cvtRgbaGsa, .rgba r g b a => .gsa (average r g b) a
  | .cvtGsaRgba, .gsa v a => .rgba v v v a
  | .cvtBwGs, .bw bit => .gs (expand (BitVec.ofBool bit))
  | .cvtGsBw, .gs v => .bw ((compact p 1 v).getLsbD 0)
  | _, col => col

/-- The conversion commands (40_color_conversions R115). -/
abbrev conversions : List Instr :=
  [.cvtRgbGs, .cvtGsRgb, .cvtGsRgba, .cvtRgbaRgb, .cvtRgbaGsa, .cvtGsaRgba, .cvtBwGs, .cvtGsBw]

theorem lowBit_eq_ofBool (w : Word) : w.extractLsb' 0 1 = BitVec.ofBool (w.getLsbD 0) := by
  ext k hk
  obtain rfl : k = 0 := by omega
  simp

/-- A conversion reads `COLOR_IN` in one type, whatever the state, and its result is a function of that colour. -/
theorem exec_cvt_eq_convert {i : Instr} (hi : i ∈ conversions) :
    ∃ ty, ∀ s : State, operandType i s = some ty ∧
      resultType i s = some (convert s.cfg.pack1 i (colorOperand s ty)).type ∧
      exec i s = .next (s.putColorOut (convert s.cfg.pack1 i (colorOperand s ty)).toWord) := by
  cases i with
  | cvtRgbGs | cvtGsRgb | cvtGsRgba | cvtRgbaRgb | cvtRgbaGsa | cvtGsaRgba | cvtGsBw =>
    exact ⟨_, fun _ => ⟨rfl, rfl, rfl⟩⟩
  | cvtBwGs =>
    refine ⟨.bw, fun s => ⟨rfl, rfl, ?_⟩⟩
    simp only [exec, execCvtBwGs, lowBit_eq_ofBool]
    rfl
  | numc | get | set | init | capb | xlate | pget | pset | palnum | palget | palfind => exact absurd hi (by decide)

/-! ## What a command reads of `COLOR_IN` (30_encoding R94) -/

/-- The state with another word in `COLOR_IN`. -/
def State.withColorIn (w : Word) (s : State) : State := { s with colorIn := w }

section
variable {w : Word} {s t : State}

/-- Results that differ in `COLOR_IN` alone end a command in states that differ in `COLOR_IN` alone: a fault record does
not depend on it. -/
theorem finish_withColorIn {r r' : Except EngineFault State} (hr : r' = State.withColorIn w <$> r)
    (h : s.finish r = .next t) : (s.withColorIn w).finish r' = .next (t.withColorIn w) := by
  subst hr
  cases r <;> cases h <;> rfl

/-- After a part that does not depend on `COLOR_IN`, it is enough that the rest of the command agrees. -/
theorem bind_withColorIn {α : Type} (x : Except EngineFault α) {k k' : α → Except EngineFault State}
    (hk : ∀ a, x = .ok a → k' a = State.withColorIn w <$> k a) :
    (x >>= k') = State.withColorIn w <$> (x >>= k) := by
  cases x with
  | ok a => exact hk a rfl
  | error e => rfl

@[simp] theorem State.withColorIn_cfg : (s.withColorIn w).cfg = s.cfg := rfl
@[simp] theorem State.withColorIn_mem : (s.withColorIn w).mem = s.mem := rfl
@[simp] theorem State.withColorIn_palBase : (s.withColorIn w).palBase = s.palBase := rfl
@[simp] theorem State.withColorIn_arg0 : (s.withColorIn w).arg0 = s.arg0 := rfl
@[simp] theorem paletteCount_withColorIn (pf : FixedFormat) :
    paletteCount (s.withColorIn w) pf = paletteCount s pf := rfl

theorem colorOperand_withColorIn {ty : ColorType} (h : w &&& laneBits ty = s.colorIn &&& laneBits ty) :
    colorOperand (s.withColorIn w) ty = colorOperand s ty :=
  Color.fromWord_congr h

theorem fillColors_withColorIn (b : BufferCodec) (col : Color) (i n : Nat) (m : Memory) (ok : Bool) :
    fillColors (s.withColorIn w) b col i n m ok = fillColors s b col i n m ok := by
  induction n generalizing i m ok with
  | zero => rfl
  | succ n ih => exact ih ..

theorem exec_cvt_withColorIn {i : Instr} (hi : i ∈ conversions)
    (hw : ∀ ty, operandType i s = some ty → w &&& laneBits ty = s.colorIn &&& laneBits ty)
    (h : exec i s = .next t) : exec i (s.withColorIn w) = .next (t.withColorIn w) := by
  obtain ⟨ty, hcvt⟩ := exec_cvt_eq_convert hi
  obtain ⟨hty, -, hs⟩ := hcvt s
  obtain ⟨-, -, hs'⟩ := hcvt (s.withColorIn w)
  rw [hs'.trans (by rw [colorOperand_withColorIn (hw ty hty)])]
  cases hs.symm.trans h
  rfl

/-- A command reads nothing of `COLOR_IN` but the lanes of its operand's type: each part of it is independent of that
register, up to the operand, which is read once the descriptors have settled its type. -/
theorem exec_withColorIn {i : Instr}
    (hw : ∀ ty, operandType i s = some ty → w &&& laneBits ty = s.colorIn &&& laneBits ty)
    (h : exec i s = .next t) : exec i (s.withColorIn w) = .next (t.withColorIn w) := by
  cases i with
  | numc => exact finish_withColorIn (bind_withColorIn (checkFmtBuf s) fun _ _ => rfl) h
  | palnum => exact finish_withColorIn (bind_withColorIn (checkFmtPal s) fun _ _ => rfl) h
  | xlate => exact finish_withColorIn (bind_withColorIn (checkPoint s) fun _ _ => rfl) h
  | capb =>
    refine finish_withColorIn (bind_withColorIn (checkFmtBuf s) fun f _ => ?_) h
    by_cases hr : 2 ^ 32 ≤ capBytes s.arg0.toNat f.bpp
    · simp only [State.withColorIn_arg0, hr, if_true]
      rfl
    · simp only [State.withColorIn_arg0, hr, if_false]
      rfl
  | get =>
    exact finish_withColorIn (bind_withColorIn (openBuffer s) fun b _ =>
      bind_withColorIn (getColor s b _) fun _ _ => rfl) h
  | pget =>
    exact finish_withColorIn (bind_withColorIn (openBuffer s) fun b _ => bind_withColorIn (checkPoint s) fun _ _ =>
      bind_withColorIn (getColor s b _) fun _ _ => rfl) h
  | palget =>
    exact finish_withColorIn (bind_withColorIn (checkFmtPal s) fun pf _ => bind_withColorIn (checkPal s) fun _ _ =>
      bind_withColorIn (palGet s pf _) fun _ _ => rfl) h
  | init =>
    refine finish_withColorIn (bind_withColorIn (openBuffer s) fun b _ => ?_) h
    rw [fillColors_withColorIn]
    rfl
  | set =>
    refine finish_withColorIn (bind_withColorIn (openBuffer s) fun b hb => ?_) h
    rw [colorOperand_withColorIn (hw _ (elementType_of_openBuffer hb))]
    exact bind_withColorIn (setColor s b _ _) fun _ _ => rfl
  | pset =>
    refine finish_withColorIn (bind_withColorIn (openBuffer s) fun b hb => ?_) h
    rw [colorOperand_withColorIn (hw _ (elementType_of_openBuffer hb))]
    exact bind_withColorIn (checkPoint s) fun _ _ => bind_withColorIn (setColor s b _ _) fun _ _ => rfl
  | palfind =>
    refine finish_withColorIn (bind_withColorIn (checkFmtIndexed s) fun x _ =>
      bind_withColorIn (checkFmtPal s) fun pf hpf => bind_withColorIn (checkPal s) fun _ _ => ?_) h
    rw [colorOperand_withColorIn (hw _ (entryType_of_checkFmtPal hpf))]
    simp only [State.withColorIn_cfg, State.withColorIn_mem, State.withColorIn_palBase, paletteCount_withColorIn]
    split <;> rfl
  | cvtRgbGs | cvtGsRgb | cvtGsRgba | cvtRgbaRgb | cvtRgbaGsa | cvtGsaRgba | cvtBwGs | cvtGsBw =>
    exact exec_cvt_withColorIn (by decide) hw h

end

/-! ## What a command leaves in `COLOR_OUT` (30_encoding R94) -/

section
variable {s t : State}

theorem type_of_palGet {pf : FixedFormat} {k : Nat} {col : Color} (h : palGet s pf k = .ok col) :
    col.type = pf.ctype := by
  rcases palGet_cases s pf k with ⟨-, he⟩ | ⟨-, he⟩ <;> cases he.symm.trans h
  exact type_decodeColor ..

theorem type_of_getColor {b : BufferCodec} {i : Nat} {col : Color} (h : getColor s b i = .ok col) :
    col.type = b.ctype := by
  by_cases hi : i < bufferCount s b
  · cases b with
    | fixed f =>
      cases (getColor_fixed_of_lt hi).symm.trans h
      exact type_decodeColor ..
    | indexed x pf => exact type_of_palGet ((getColor_indexed_of_lt hi).symm.trans h)
  · cases (getColor_of_ge (Nat.le_of_not_lt hi)).symm.trans h

theorem colorOut_eq_toWord_of_cvt {i : Instr} {ty : ColorType} (hi : i ∈ conversions)
    (hty : resultType i s = some ty) (h : exec i s = .next t) :
    ∃ col : Color, col.type = ty ∧ t.colorOut = col.toWord := by
  obtain ⟨_, hcvt⟩ := exec_cvt_eq_convert hi
  obtain ⟨-, hres, hs⟩ := hcvt s
  cases hs.symm.trans h
  cases hres.symm.trans hty
  exact ⟨_, rfl, rfl⟩

/-- A colour command that does not fault leaves the word of a colour of the type its result has. -/
theorem colorOut_eq_toWord {i : Instr} {ty : ColorType} (hty : resultType i s = some ty) (h : exec i s = .next t)
    (hf : t.fault = false) : ∃ col : Color, col.type = ty ∧ t.colorOut = col.toWord := by
  cases i with
  | get =>
    rcases exec_get_cases s with ⟨b, col, ho, hg, he⟩ | ⟨b, e, -, -, he⟩ | ⟨e, -, he⟩ <;> cases he.symm.trans h
    · cases (elementType_of_openBuffer ho).symm.trans hty
      exact ⟨col, type_of_getColor hg, rfl⟩
    all_goals cases hf
  | pget =>
    rcases exec_pget_cases s with ⟨b, col, ho, -, hg, he⟩ | ⟨b, e, -, -, -, he⟩ | ⟨b, e, -, -, he⟩ | ⟨e, -, he⟩ <;>
      cases he.symm.trans h
    · cases (elementType_of_openBuffer ho).symm.trans hty
      exact ⟨col, type_of_getColor hg, rfl⟩
    all_goals cases hf
  | palget =>
    rcases exec_palget_cases s with
      ⟨pf, col, hp, -, hg, he⟩ | ⟨pf, e, -, -, -, he⟩ | ⟨pf, e, -, -, he⟩ | ⟨e, -, he⟩ <;>
      cases he.symm.trans h
    · cases (entryType_of_checkFmtPal hp).symm.trans hty
      exact ⟨col, type_of_palGet hg, rfl⟩
    all_goals cases hf
  | cvtRgbGs | cvtGsRgb | cvtGsRgba | cvtRgbaRgb | cvtRgbaGsa | cvtGsaRgba | cvtBwGs | cvtGsBw =>
    exact colorOut_eq_toWord_of_cvt (by decide) hty h
  | numc | set | init | capb | xlate | pset | palnum | palfind => cases hty

end

/-- Settles O60: the colour word by its lanes; the ignored bits of `COLOR_IN` and the canonical result command by
command, the eight conversions together as functions of a colour. -/
theorem colorWordLanes : Obligations.ColorWordLanes := by
  refine ⟨fromWord_eq_ofNat, toWord_toNat, toWord_fromWord, rfl, ?operand, ?result⟩
  case operand =>
    intro i s t w hw h
    exact exec_withColorIn hw h
  case result =>
    intro i s t ty hty h hf
    obtain ⟨col, rfl, hout⟩ := colorOut_eq_toWord hty h hf
    rw [hout, toWord_and_laneBits]

end Sys2Proof.Machine
end

section
/-! PROOFS. The statements of 40_color_conversions: channel scaling (R111 to R114) and the conversion commands (R120 to
R127). -/

namespace Sys2Proof.Machine

/-! ## Channel scaling (40_color_conversions R111 to R114) -/

theorem scaleTable_constants :
    ∀ e ∈ scaleTable, 2 ≤ e.1 ∧ e.1 ≤ 8 ∧ e.2 = 255 / (2 ^ e.1 - 1) := by decide

theorem expand_one_toNat (v : BitVec 1) : (expand v).toNat = v.toNat * 255 := by
  obtain rfl | rfl := BitVec.eq_zero_or_eq_one v <;> rfl

/-- The 1-bit compaction as the threshold each `PACK1_RULE` sets. -/
theorem compact_one_toNat (p : Pack1Rule) (v : Byte) : (compact p 1 v).toNat = packOne p v := by
  cases p with
  | nonzero =>
    by_cases hv : v = 0
    · subst hv; rfl
    · have hpos : 0 < v.toNat := Nat.pos_of_ne_zero fun h => hv (BitVec.eq_of_toNat_eq h)
      simp only [compact, packOne, if_true, if_neg hv, if_pos hpos]
      rfl
  | msb =>
    have hv := v.isLt
    simp only [compact, packOne, if_true, BitVec.toNat_setWidth, BitVec.toNat_ushiftRight, Nat.shiftRight_eq_div_pow]
    omega

/-- Truncating the scaled value to its top bits drops exactly what scaling added below them: `K(n)` lies between
`2^(8-n)` and the least factor that would carry into the next value. -/
theorem scaled_div {n v : Nat} (hn : 2 ≤ n) (hn' : n ≤ 8) (hv : v < 2 ^ n) :
    v * (255 / (2 ^ n - 1)) / 2 ^ (8 - n) = v := by
  interval_cases n <;> omega

theorem compact_expand (p : Pack1Rule) {n : Nat} (hn : 1 ≤ n) (hn' : n ≤ 8) (v : BitVec n) :
    compact p n (expand v) = v := by
  apply BitVec.eq_of_toNat_eq
  obtain rfl | hn2 : n = 1 ∨ 2 ≤ n := by omega
  · rw [compact_one_toNat]
    obtain rfl | rfl := BitVec.eq_zero_or_eq_one v <;> cases p <;> rfl
  · rw [compact_toNat p hn2 hn', expand_toNat hn2 hn', scaled_div hn2 hn' v.isLt]

/-- Settles O16: a value of the image is the expansion of some `x`, and compaction gives that `x` back. -/
theorem scalingRoundTrip : Obligations.ScalingRoundTrip := by
  intro p n hn hn'
  refine ⟨compact_expand p hn hn', fun v => ⟨fun h => ⟨_, h⟩, ?_⟩⟩
  rintro ⟨x, rfl⟩
  rw [compact_expand p hn hn']

/-- Settles O15, from the value of each scaled channel; the table's constants are the quotients of R111. -/
theorem scalingFormulas : Obligations.ScalingFormulas := by
  refine ⟨fun n k h => ?_, rfl, rfl, compact_one_toNat .nonzero, compact_one_toNat .msb⟩
  obtain ⟨hn, hn', hk⟩ := scaleTable_constants (n, k) h
  dsimp only at hn hn' hk
  subst hk
  exact ⟨rfl, expand_toNat hn hn', fun p => compact_toNat p hn hn'⟩

/-! ## The conversion commands (40_color_conversions R120 to R127) -/

/-- The gray reduction forms the sum without wrap, and the average of three bytes is a byte. -/
theorem average_toNat (r g b : Byte) : (average r g b).toNat = (r.toNat + g.toNat + b.toNat) / 3 := by
  rw [average, BitVec.toNat_ofNat, Nat.mod_eq_of_lt (by omega)]

/-- The lanes of a word as numbers; nothing of a word lies above lane 3. -/
theorem lanes_toNat (w : Word) :
    (lane 0 w).toNat = w.toNat % 256 ∧ (lane 1 w).toNat = w.toNat / 2 ^ 8 % 256 ∧
    (lane 2 w).toNat = w.toNat / 2 ^ 16 % 256 ∧ (lane 3 w).toNat = w.toNat / 2 ^ 24 := by
  refine ⟨?_, lane_toNat 1 w, lane_toNat 2 w, ?_⟩ <;> rw [lane_toNat] <;> omega

theorem lane_zero_eq_setWidth (w : Word) : lane 0 w = w.setWidth 8 := BitVec.eq_of_toNat_eq (by simp [lane_toNat])

theorem toNat_getLsbD_zero (b : BitVec 1) : (b.getLsbD 0).toNat = b.toNat := by
  obtain rfl | rfl := BitVec.eq_zero_or_eq_one b <;> rfl

/-- A conversion's next state, with the number its result's colour word stands for (30_encoding R93). -/
theorem next_putColorOut_eq_ofNat (s : State) {col : Color} {n : Nat} (h : col.toWord.toNat = n) :
    (.next (s.putColorOut col.toWord) : Host.Outcome State Fault Refusal) =
      .next { s with colorOut := BitVec.ofNat 32 n, noMatch := false } := by
  rw [← h, BitVec.ofNat_toNat, BitVec.setWidth_eq]
  rfl

/-- Settles O17: the result is the gray colour of the average of lanes 0 to 2. -/
theorem cvtRgbGs : Obligations.CvtRgbGs := by
  refine ⟨decode_encode .cvtRgbGs, fun s => next_putColorOut_eq_ofNat s ?_⟩
  simp [Color.toWord, average_toNat, lanes_toNat]

/-- Settles O18: each result is a colour whose three lanes repeat lane 0. -/
theorem cvtReplicates : Obligations.CvtReplicates := by
  refine ⟨decode_encode .cvtGsRgb, decode_encode .cvtGsRgba, decode_encode .cvtGsaRgba, fun s =>
    ⟨next_putColorOut_eq_ofNat s ?absent, next_putColorOut_eq_ofNat s ?full, next_putColorOut_eq_ofNat s ?passed⟩⟩
  case absent => simp [Color.toWord, lanes_toNat]
  case full => simp [Color.toWord, lanes_toNat, Nat.add_assoc]
  case passed => simp [Color.toWord, lanes_toNat, Nat.add_assoc]

/-- Settles O19: lanes 0 to 2 are kept or averaged; alpha is left out or kept in lane 3. -/
theorem cvtFromRgba : Obligations.CvtFromRgba := by
  refine ⟨decode_encode .cvtRgbaRgb, decode_encode .cvtRgbaGsa, fun s =>
    ⟨next_putColorOut_eq_ofNat s ?dropped, next_putColorOut_eq_ofNat s ?kept⟩⟩
  case dropped => simp [Color.toWord, lanes_toNat]
  case kept => simp [Color.toWord, average_toNat, lanes_toNat]

/-- Settles O20, by the 1-bit rules of `expand` and `compact`. -/
theorem cvtBlackWhite : Obligations.CvtBlackWhite := by
  refine ⟨decode_encode .cvtBwGs, decode_encode .cvtGsBw, fun s =>
    ⟨next_putColorOut_eq_ofNat s ?expanded, next_putColorOut_eq_ofNat s ?packed⟩⟩
  case expanded => simp [Color.toWord, expand_one_toNat, -expand_one]
  case packed =>
    obtain ⟨hbit, -⟩ := toWord_toNat ((compact s.cfg.pack1 1 (lane 0 s.colorIn)).getLsbD 0) 0 0 0 0 0
    rw [hbit, toNat_getLsbD_zero, compact_one_toNat, lane_zero_eq_setWidth]

end Sys2Proof.Machine
end

section
/-! PROOFS. The statements of 41_format_codecs: the element counts (R182, R195), sub-byte fields (R141 to R143), decode
and encode of the fixed-depth formats (R145 to R178). -/

namespace Sys2Proof.Machine

/-! ## The element counts (41_format_codecs R182, 42_indexed_codec R195) -/

theorem checkFmtBuf_of_ofCode_some {s : State} {f : Format} (h : Format.ofCode s.bufFmt = some f) :
    checkFmtBuf s = .ok f := by
  simp [checkFmtBuf, h]

theorem checkFmtBuf_of_ofCode_none {s : State} (h : Format.ofCode s.bufFmt = none) :
    checkFmtBuf s = .error (.badFormat s.bufFmt) := by
  simp [checkFmtBuf, h]

theorem checkFmtPal_of_fixed {s : State} {f : FixedFormat} (h : Format.ofCode s.palFmt = some (.fixed f)) :
    checkFmtPal s = .ok f := by
  simp [checkFmtPal, h]

theorem checkFmtPal_of_not_fixed {s : State} (h : ∀ f, Format.ofCode s.palFmt ≠ some (.fixed f)) :
    checkFmtPal s = .error (.badFormat s.palFmt) := by
  obtain ⟨f, hf, -⟩ | ⟨-, he⟩ := checkFmtPal_cases s
  · exact absurd hf (h f)
  · exact he

/-- A window of a 29-bit length has fewer than `2^32` elements, even of one bit each. -/
theorem elementCount_lt (len : BitVec 29) (bpp : Nat) : len.toNat * 8 / bpp < 2 ^ 32 := by
  have hlen := len.isLt
  have hdiv := Nat.div_le_self (len.toNat * 8) bpp
  omega

theorem exec_numc_of_ok {s : State} {f : Format} (h : checkFmtBuf s = .ok f) :
    exec .numc s = .next (s.putResult (BitVec.ofNat 32 (s.elements f.bpp)) false) := by
  obtain ⟨g, hg, hx⟩ | ⟨e, he, -⟩ := exec_numc_cases s
  · cases h.symm.trans hg; exact hx
  · cases h.symm.trans he

theorem exec_numc_of_error {s : State} {e : EngineFault} (h : checkFmtBuf s = .error e) :
    exec .numc s = .next (s.raise e) := by
  obtain ⟨g, hg, -⟩ | ⟨e', he, hx⟩ := exec_numc_cases s
  · cases h.symm.trans hg
  · cases h.symm.trans he; exact hx

theorem exec_palnum_of_ok {s : State} {pf : FixedFormat} (h : checkFmtPal s = .ok pf) :
    exec .palnum s = .next (s.putResult (BitVec.ofNat 32 (s.entries pf.bpp)) false) := by
  obtain ⟨g, hg, hx⟩ | ⟨e, he, -⟩ := exec_palnum_cases s
  · cases h.symm.trans hg; exact hx
  · cases h.symm.trans he

theorem exec_palnum_of_error {s : State} {e : EngineFault} (h : checkFmtPal s = .error e) :
    exec .palnum s = .next (s.raise e) := by
  obtain ⟨g, hg, -⟩ | ⟨e', he, hx⟩ := exec_palnum_cases s
  · cases h.symm.trans hg
  · cases h.symm.trans he; exact hx

/-- Settles O21: each command is its format check, then the count, which fits the result register. -/
theorem countCommands : Obligations.CountCommands :=
  ⟨decode_encode .numc, decode_encode .palnum, fun s =>
    ⟨fun f hf => ⟨elementCount_lt s.bufLen f.bpp, exec_numc_of_ok (checkFmtBuf_of_ofCode_some hf)⟩,
     fun hf => exec_numc_of_error (checkFmtBuf_of_ofCode_none hf),
     fun f hf => ⟨elementCount_lt s.palLen f.bpp, exec_palnum_of_ok (checkFmtPal_of_fixed hf)⟩,
     fun hf => exec_palnum_of_error (checkFmtPal_of_not_fixed hf)⟩⟩

/-! ## Sub-byte fields as arithmetic (41_format_codecs R141 to R143) -/

@[simp] theorem pos_one (c : Config) (i : Nat) : pos c i 1 = i % 8 := rfl

@[simp] theorem pos_two (c : Config) (i : Nat) : pos c i 2 = i % 4 * 2 := rfl

@[simp] theorem pos_four (c : Config) (i : Nat) : pos c i 4 = nibbleShift c i := rfl

@[simp] theorem pos_eight (c : Config) (i : Nat) : pos c i 8 = 0 := rfl

/-- The number `putField` makes, as nested fields: below bit `sh` the old bits, then `w` new ones, then old ones. -/
theorem putField_eq_nested (old : Byte) (sh w f : Nat) :
    putField old sh w f =
      BitVec.ofNat 8 (2 ^ sh * (2 ^ w * (old.toNat / 2 ^ (sh + w)) + f) + old.toNat % 2 ^ sh) := by
  unfold putField
  congr 1
  ring

/-- Mask-and-or is arithmetic: bit by bit, both keep the old bits outside the field and take the new ones inside. -/
theorem replaceField_eq_putField (old : Byte) {sh w : Nat} (h : sh + w ≤ 8) (f : BitVec w) :
    replaceField old sh w f = putField old sh w f.toNat := by
  apply BitVec.eq_of_getLsbD_eq
  intro j hj
  have hbelow : old.toNat % 2 ^ sh < 2 ^ sh := Nat.mod_lt _ (by positivity)
  rw [getLsbD_replaceField old h f hj, putField_eq_nested, BitVec.getLsbD_ofNat,
    Nat.testBit_two_pow_mul_add _ hbelow, Nat.testBit_two_pow_mul_add _ f.isLt, Nat.testBit_div_two_pow,
    Nat.testBit_mod_two_pow]
  simp only [BitVec.testBit_toNat, hj, decide_true, Bool.true_and]
  obtain hlow | hin | habove : j < sh ∨ (sh ≤ j ∧ j < sh + w) ∨ sh + w ≤ j := by omega
  · simp [hlow, Nat.not_le.2 hlow]
  · have hin' : j - sh < w := by omega
    simp [hin, hin', Nat.not_lt.2 hin.1]
  · have hout : ¬ j - sh < w := by omega
    have hj' : j - sh - w + (sh + w) = j := by omega
    simp [Nat.not_lt.2 habove, hout, hj', show ¬ j < sh by omega]

theorem fieldGet_toNat (c : Config) (m : Memory) (base i w : Nat) :
    (fieldGet c m base i w).toNat = (m.read (base + i / (8 / w))).toNat / 2 ^ pos c i w % 2 ^ w := by
  simp [fieldGet, Nat.shiftRight_eq_div_pow]

/-- Reading after `field_set`, in one equation. -/
theorem read_fieldSet (c : Config) (m : Memory) (base i : Nat) {w : Nat} (h : FieldWidth w) (f : BitVec w) (a : Nat) :
    (fieldSet c m base i w f).read a =
      if a = base + i / (8 / w) then putField (m.read a) (pos c i w) w f.toNat else m.read a := by
  rw [fieldSet_eq c m base i h f, Memory.read_write]
  split
  · next ha => rw [ha, replaceField_eq_putField _ (pos_add_le c i h)]
  · rfl

/-- The positions of R142 are those of the model, for the widths of a field. -/
theorem fieldWidth_and_pos_of_mem {c : Config} {i w sh : Nat}
    (h : (w, sh) ∈ [(1, i % 8), (2, i % 4 * 2), (4, nibbleShift c i), (8, 0)]) : FieldWidth w ∧ pos c i w = sh := by
  simp only [List.mem_cons, Prod.mk.injEq, List.not_mem_nil, or_false] at h
  obtain ⟨rfl, rfl⟩ | ⟨rfl, rfl⟩ | ⟨rfl, rfl⟩ | ⟨rfl, rfl⟩ := h <;> simp [FieldWidth]

/-- Settles O30: `field_get` by its shift, `field_set` as one write of a byte whose field is replaced. -/
theorem subByteFields : Obligations.SubByteFields := by
  intro c m base i w sh f a h
  obtain ⟨hw, rfl⟩ := fieldWidth_and_pos_of_mem h
  exact ⟨fieldGet_toNat c m base i w, read_fieldSet c m base i hw f a⟩

/-! ## Decode (41_format_codecs R145 to R177) -/

/-- Channel expansion is one product for every width: the threshold of 1 bit is the product with 255. -/
theorem expand_eq_ofNat {n : Nat} (v : BitVec n) : expand v = BitVec.ofNat 8 (255 / (2 ^ n - 1) * v.toNat) := by
  by_cases hn : n = 1
  · subst hn
    obtain rfl | rfl := BitVec.eq_zero_or_eq_one v <;> rfl
  · rw [expand, if_neg hn, Nat.mul_comm]

theorem expand_of_toNat {n e : Nat} {v : BitVec n} (h : v.toNat = e) :
    expand v = BitVec.ofNat 8 (255 / (2 ^ n - 1) * e) := by
  rw [expand_eq_ofNat, h]

/-- `y[hi:lo]` as arithmetic (00_scope R7). -/
theorem extractLsb'_toNat_div_mod {n : Nat} (y : BitVec n) (lo len : Nat) :
    (y.extractLsb' lo len).toNat = y.toNat / 2 ^ lo % 2 ^ len := by
  rw [BitVec.extractLsb'_toNat, Nat.shiftRight_eq_div_pow]

/-- `(hi << n) | lo` as a number, from the numbers of its parts. -/
theorem join_of_toNat {w m n x y : Nat} {hi : BitVec m} {lo : BitVec n} (h : m + n ≤ w) (hx : hi.toNat = x)
    (hy : lo.toNat = y) : (join hi lo : BitVec w).toNat = x * 2 ^ n + y := by
  rw [join_toNat h, hx, hy]

theorem extractLsb'_upper_toNat {n lo len : Nat} (y : BitVec n) (hn : n = lo + len) :
    (y.extractLsb' lo len).toNat = y.toNat / 2 ^ lo := by
  subst hn
  rw [extractLsb'_toNat_div_mod, Nat.mod_eq_of_lt]
  exact Nat.div_lt_of_lt_mul (by rw [← pow_add]; exact y.isLt)

theorem extractLsb'_lower_toNat {n : Nat} (y : BitVec n) (len : Nat) :
    (y.extractLsb' 0 len).toNat = y.toNat % 2 ^ len := by
  rw [extractLsb'_toNat_div_mod, pow_zero, Nat.div_one]

theorem expand_upper {n e lo len : Nat} {y : BitVec n} (hy : y.toNat = e) (hn : n = lo + len) :
    expand (y.extractLsb' lo len) = BitVec.ofNat 8 (255 / (2 ^ len - 1) * (e / 2 ^ lo)) :=
  expand_of_toNat ((extractLsb'_upper_toNat y hn).trans (by rw [hy]))

theorem expand_lower {n e len : Nat} {y : BitVec n} (hy : y.toNat = e) :
    expand (y.extractLsb' 0 len) = BitVec.ofNat 8 (255 / (2 ^ len - 1) * (e % 2 ^ len)) :=
  expand_of_toNat ((extractLsb'_lower_toNat y len).trans (by rw [hy]))

theorem byte_eq_ofNat {y : Byte} {n : Nat} (h : y.toNat = n) : y = BitVec.ofNat 8 n := by
  rw [← h, BitVec.ofNat_toNat, BitVec.setWidth_eq]

theorem getLsbD_zero_eq_decide (b : BitVec 1) : b.getLsbD 0 = decide (b.toNat = 1) := by
  obtain rfl | rfl := BitVec.eq_zero_or_eq_one b <;> rfl

/-- Settles O25: each channel expands the whole, the upper part or the lower part of the element's field or byte. -/
theorem decodeGray : Obligations.DecodeGray := by
  intro c m base i rb e1 e2 e4
  have h1 : (fieldGet c m base i 1).toNat = e1 := fieldGet_toNat c m base i 1
  have h2 : (fieldGet c m base i 2).toNat = e2 := fieldGet_toNat c m base i 2
  have h4 : (fieldGet c m base i 4).toNat = e4 := fieldGet_toNat c m base i 4
  have h8 : (m.read (base + i)).toNat = rb i := rfl
  refine ⟨?bw1, ?gs1, ?gs2, ?gs4, ?gs8, ?gsa11, ?gsa22, ?gsa31, ?gsa44, ?gsa71⟩
  case bw1 => rw [← h1]; exact congrArg Color.bw (getLsbD_zero_eq_decide _)
  case gs1 => exact congrArg Color.gs (expand_of_toNat h1)
  case gs2 => exact congrArg Color.gs (expand_of_toNat h2)
  case gs4 => exact congrArg Color.gs (expand_of_toNat h4)
  case gs8 => exact congrArg Color.gs (byte_eq_ofNat h8)
  case gsa11 => exact congrArg₂ Color.gsa (expand_upper h2 rfl) (expand_lower h2)
  case gsa22 => exact congrArg₂ Color.gsa (expand_upper h4 rfl) (expand_lower h4)
  case gsa31 => exact congrArg₂ Color.gsa (expand_upper h4 rfl) (expand_lower h4)
  case gsa44 => exact congrArg₂ Color.gsa (expand_upper h8 rfl) (expand_lower h8)
  case gsa71 => exact congrArg₂ Color.gsa (expand_upper h8 rfl) (expand_lower h8)

theorem Color.rgb_congr {r g b r' g' b' : Byte} (hr : r = r') (hg : g = g') (hb : b = b') :
    Color.rgb r g b = Color.rgb r' g' b' := by
  rw [hr, hg, hb]

theorem Color.rgba_congr {r g b a r' g' b' a' : Byte} (hr : r = r') (hg : g = g') (hb : b = b') (ha : a = a') :
    Color.rgba r g b a = Color.rgba r' g' b' a' := by
  rw [hr, hg, hb, ha]

/-- Settles O26: the channels of one byte are parts of it; those of a 16-bit element are parts of two bytes side by
side, and so of the number the two bytes stand for. -/
theorem decodeRgb : Obligations.DecodeRgb := by
  intro c m base i rb w o
  have hb (k : Nat) : (m.read (base + k)).toNat = rb k := rfl
  have hlo : rb (2 * i + 1) < 256 := (m.read _).isLt
  refine ⟨?rgb332, ?even, ?odd, ?rgb565, ?rgb888, ?rgba4444, ?rgba5551, ?rgba8888⟩
  case rgb332 =>
    exact Color.rgb_congr (expand_upper (hb i) rfl) (expand_of_toNat (extractLsb'_toNat_div_mod _ 2 3))
      (expand_lower (hb i))
  case even =>
    intro hi
    rw [decodeColor, if_pos hi]
    exact Color.rgb_congr (expand_upper (hb o) rfl) (expand_lower (hb o)) (expand_upper (hb (o + 1)) rfl)
  case odd =>
    intro hi
    rw [decodeColor, if_neg (by omega)]
    exact Color.rgb_congr (expand_lower (hb (o + 1))) (expand_upper (hb (o + 2)) rfl) (expand_lower (hb (o + 2)))
  case rgb565 =>
    have hred : w / 2048 = rb (2 * i) / 8 := by omega
    have hgreen : w / 32 % 64 = rb (2 * i) % 8 * 8 + rb (2 * i + 1) / 32 := by omega
    have hblue : w % 32 = rb (2 * i + 1) % 32 := by omega
    rw [hred, hgreen, hblue]
    exact Color.rgb_congr (expand_upper (hb _) rfl)
      (expand_of_toNat (join_of_toNat (by decide) (extractLsb'_lower_toNat _ 3) (extractLsb'_upper_toNat _ rfl)))
      (expand_lower (hb _))
  case rgb888 =>
    exact Color.rgb_congr (byte_eq_ofNat (hb _)) (byte_eq_ofNat (hb _)) (byte_eq_ofNat (hb _))
  case rgba4444 =>
    have hred : w / 4096 = rb (2 * i) / 16 := by omega
    have hgreen : w / 256 % 16 = rb (2 * i) % 16 := by omega
    have hblue : w / 16 % 16 = rb (2 * i + 1) / 16 := by omega
    have halpha : w % 16 = rb (2 * i + 1) % 16 := by omega
    rw [hred, hgreen, hblue, halpha]
    exact Color.rgba_congr (expand_upper (hb _) rfl) (expand_lower (hb _)) (expand_upper (hb _) rfl)
      (expand_lower (hb _))
  case rgba5551 =>
    have hred : w / 2048 = rb (2 * i) / 8 := by omega
    have hgreen : w / 64 % 32 = rb (2 * i) % 8 * 4 + rb (2 * i + 1) / 64 := by omega
    have hblue : w / 2 % 32 = rb (2 * i + 1) / 2 % 32 := by omega
    have halpha : w % 2 = rb (2 * i + 1) % 2 := by omega
    rw [hred, hgreen, hblue, halpha]
    exact Color.rgba_congr (expand_upper (hb _) rfl)
      (expand_of_toNat (join_of_toNat (by decide) (extractLsb'_lower_toNat _ 3) (extractLsb'_upper_toNat _ rfl)))
      (expand_of_toNat (extractLsb'_toNat_div_mod _ 1 5)) (expand_lower (hb _))
  case rgba8888 =>
    exact Color.rgba_congr (byte_eq_ofNat (hb _)) (byte_eq_ofNat (hb _)) (byte_eq_ofNat (hb _)) (byte_eq_ofNat (hb _))

/-! ## Encode (41_format_codecs R146 to R178) -/

/-- The memory with the bytes `vs` written at ascending addresses from `a`: the shape of an encode of whole bytes. -/
def Memory.writeBytes (m : Memory) (a : Nat) : List Byte → Memory
  | [] => m
  | v :: vs => (m.write a v).writeBytes (a + 1) vs

@[simp] theorem Memory.writeBytes_nil (m : Memory) (a : Nat) : m.writeBytes a [] = m := rfl

theorem Memory.read_writeBytes_congr {m m' : Memory} {a : Nat} (h : m.read a = m'.read a) (k : Nat) (vs : List Byte) :
    (m.writeBytes k vs).read a = (m'.writeBytes k vs).read a := by
  induction vs generalizing m m' k with
  | nil => exact h
  | cons v vs ih => exact ih (by rw [Memory.read_write, Memory.read_write, h]) _

theorem Memory.read_writeBytes_of_lt (m : Memory) {a k : Nat} (h : a < k) (vs : List Byte) :
    (m.writeBytes k vs).read a = m.read a := by
  induction vs generalizing m k with
  | nil => rfl
  | cons v vs ih => exact (ih _ (by omega)).trans (Memory.read_write_other m v (by omega))

/-- Reading after writing several bytes: the first one at its own address, elsewhere the rest as if written alone. -/
theorem Memory.read_writeBytes_cons (m : Memory) (a k : Nat) (v : Byte) (vs : List Byte) :
    (m.writeBytes k (v :: vs)).read a = if a = k then v else (m.writeBytes (k + 1) vs).read a := by
  split
  · next h => subst h; exact (Memory.read_writeBytes_of_lt _ (by omega) vs).trans (Memory.read_write_same m a v)
  · next h => exact Memory.read_writeBytes_congr (Memory.read_write_other m v h) _ _

/-- Two bytes in a row, by their numbers; a byte's number matters only where that byte is the one read. -/
theorem Memory.read_writeBytes_pair (m : Memory) {a k x y : Nat} {u v : Byte} (hu : a = k → u.toNat = x)
    (hv : a = k + 1 → v.toNat = y) :
    (m.writeBytes k [u, v]).read a =
      if a = k then BitVec.ofNat 8 x else if a = k + 1 then BitVec.ofNat 8 y else m.read a := by
  rw [Memory.read_writeBytes_cons, Memory.read_writeBytes_cons, Memory.writeBytes_nil]
  exact ite_congr rfl (fun h => byte_eq_ofNat (hu h)) fun _ =>
    ite_congr rfl (fun h => byte_eq_ofNat (hv h)) fun _ => rfl

theorem Memory.read_write_of_toNat (m : Memory) {a k x : Nat} {u : Byte} (hu : u.toNat = x) :
    (m.write k u).read a = if a = k then BitVec.ofNat 8 x else m.read a := by
  rw [Memory.read_write, byte_eq_ofNat hu]

theorem read_fieldSet_of_toNat (c : Config) (m : Memory) (base i : Nat) {w x : Nat} {f : BitVec w} {a : Nat}
    (hw : FieldWidth w) (hf : f.toNat = x) :
    (fieldSet c m base i w f).read a =
      if a = base + i / (8 / w) then putField (m.read a) (pos c i w) w x else m.read a := by
  rw [read_fieldSet c m base i hw, hf]

/-- `compact_toNat` with the width named, for the widths of Table 30-3 above 1 bit. -/
theorem compact_top_toNat (p : Pack1Rule) (n : Nat) (v : Byte) (h : 2 ≤ n ∧ n ≤ 8 := by decide) :
    (compact p n v).toNat = v.toNat / 2 ^ (8 - n) := compact_toNat p h.1 h.2 v

theorem packOne_le_one (p : Pack1Rule) (v : Byte) : packOne p v ≤ 1 := by
  rw [← compact_one_toNat]
  omega

/-- Settles O27: a field of fewer than 8 bits is one `field_set` of the compacted channels side by side, a field of 8
bits one write. -/
theorem encodeGray : Obligations.EncodeGray := by
  intro c m base i bit val al a v t v1 t1
  have top (n : Nat) (x : Byte) (h : 2 ≤ n ∧ n ≤ 8 := by decide) := compact_top_toNat c.pack1 n x h
  have one (x : Byte) := compact_one_toNat c.pack1 x
  have field {w x : Nat} {f : BitVec w} (hw : FieldWidth w) (hf : f.toNat = x) :=
    read_fieldSet_of_toNat c m base i (a := a) hw hf
  have h1 : FieldWidth 1 := by decide
  have h2 : FieldWidth 2 := by decide
  have h4 : FieldWidth 4 := by decide
  refine ⟨?bw1, ?gs1, ?gs2, ?gs4, ?gs8, ?gsa11, ?gsa22, ?gsa31, ?gsa44, ?gsa71⟩
  case bw1 => exact field h1 (BitVec.toNat_ofBool bit)
  case gs1 => exact field h1 (one val)
  case gs2 => exact field h2 (top 2 val)
  case gs4 => exact field h4 (top 4 val)
  case gs8 => exact Memory.read_write m _ a val
  case gsa11 => exact field h2 (join_of_toNat (by decide) (one val) (one al))
  case gsa22 => exact field h4 (join_of_toNat (by decide) (top 2 val) (top 2 al))
  case gsa31 => exact field h4 (join_of_toNat (by decide) (top 3 val) (one al))
  case gsa44 => exact Memory.read_write_of_toNat m (join_of_toNat (by decide) (top 4 val) (top 4 al))
  case gsa71 => exact Memory.read_write_of_toNat m (join_of_toNat (by decide) (top 7 val) (one al))

/-- Settles O28: each encode writes bytes in a row, each of them compacted channels side by side; the middle byte of an
`RGB444` pair keeps the neighbour's nibble, which a write to the element's other byte does not touch. -/
theorem encodeRgb : Obligations.EncodeRgb := by
  intro c m base i red green blue a r g b w o
  have hg : g < 256 := green.isLt
  have hb : b < 256 := blue.isLt
  have top (n : Nat) (x : Byte) (h : 2 ≤ n ∧ n ≤ 8 := by decide) := compact_top_toNat c.pack1 n x h
  refine ⟨?rgb332, ?even, ?odd, ?rgb565, ?rgb888⟩
  case rgb332 =>
    refine Memory.read_write_of_toNat m
      ((join_of_toNat (by decide) (join_of_toNat (by decide) (top 3 red) (top 3 green)) (top 2 blue)).trans ?_)
    omega
  case even =>
    intro hi
    have hold (v : Byte) : (m.write o v).read (o + 1) = m.read (o + 1) := Memory.read_write_other m v (by omega)
    rw [encodeColor, if_pos hi]
    refine Memory.read_writeBytes_pair m (fun _ => ?_) (fun ha => ?_)
    · exact join_of_toNat (by decide) (top 4 red) (top 4 green)
    · rw [ha]
      exact join_of_toNat (by decide) (top 4 blue) ((extractLsb'_lower_toNat _ 4).trans (by rw [← hold]; rfl))
  case odd =>
    intro hi
    rw [encodeColor, if_neg (by omega)]
    refine Memory.read_writeBytes_pair m (fun ha => ?_) (fun _ => ?_)
    · rw [ha]
      exact join_of_toNat (by decide) (extractLsb'_upper_toNat _ rfl) (top 4 red)
    · exact join_of_toNat (by decide) (top 4 green) (top 4 blue)
  case rgb565 =>
    refine Memory.read_writeBytes_pair m (fun _ => ?_) (fun _ => ?_)
    · refine (join_of_toNat (by decide) (top 5 red) (extractLsb'_upper_toNat _ rfl)).trans ?_
      rw [top 6]
      omega
    · refine (join_of_toNat (by decide) (extractLsb'_lower_toNat _ 3) (top 5 blue)).trans ?_
      rw [top 6]
      omega
  case rgb888 =>
    change (m.writeBytes (base + 3 * i) [red, green, blue]).read a = _
    simp only [Memory.read_writeBytes_cons, Memory.writeBytes_nil]

/-- Settles O29: as for the RGB formats, with the alpha channel in the lowest bits of the last byte. -/
theorem encodeRgba : Obligations.EncodeRgba := by
  intro c m base i red green blue al a r g b w
  have hg : g < 256 := green.isLt
  have hb : b < 256 := blue.isLt
  have hal : packOne c.pack1 al ≤ 1 := packOne_le_one c.pack1 al
  have top (n : Nat) (x : Byte) (h : 2 ≤ n ∧ n ≤ 8 := by decide) := compact_top_toNat c.pack1 n x h
  have one (x : Byte) := compact_one_toNat c.pack1 x
  refine ⟨?rgba4444, ?rgba5551, ?rgba8888⟩
  case rgba4444 =>
    exact Memory.read_writeBytes_pair m (fun _ => join_of_toNat (by decide) (top 4 red) (top 4 green))
      (fun _ => join_of_toNat (by decide) (top 4 blue) (top 4 al))
  case rgba5551 =>
    refine Memory.read_writeBytes_pair m (fun _ => ?_) (fun _ => ?_)
    · refine (join_of_toNat (by decide) (top 5 red) (extractLsb'_upper_toNat _ rfl)).trans ?_
      rw [top 5]
      omega
    · refine (join_of_toNat (by decide) (join_of_toNat (by decide) (extractLsb'_lower_toNat _ 2) (top 5 blue))
        (one al)).trans ?_
      rw [top 5]
      omega
  case rgba8888 =>
    change (m.writeBytes (base + 4 * i) [red, green, blue, al]).read a = _
    simp only [Memory.read_writeBytes_cons, Memory.writeBytes_nil]

end Sys2Proof.Machine
end

section
/-! PROOFS. The statements of 42_indexed_codec: the palette look-up (R196) and the palette search (R197). -/

namespace Sys2Proof.Machine

section
variable {s : State} {x : IndexedFormat} {pf : FixedFormat} {e : EngineFault} {col : Color} {k : Nat}

/-! ## The palette's window and entries (60_exceptions R251, R252; 42_indexed_codec R191) -/

theorem checkPal_of_fits (h : s.PaletteFits) : checkPal s = .ok () := by
  obtain ⟨-, hc⟩ | ⟨hlt, -⟩ := checkPal_cases s
  · exact hc
  · exact absurd h (Nat.not_le.2 hlt)

theorem checkPal_of_not_fits (h : ¬ s.PaletteFits) : checkPal s = .error .badPaletteWindow := by
  obtain ⟨hle, -⟩ | ⟨-, hc⟩ := checkPal_cases s
  · exact absurd hle h
  · exact hc

theorem palGet_of_lt (h : k < s.entries pf.bpp) : palGet s pf k = .ok (s.entry pf k) := by
  obtain ⟨-, hg⟩ | ⟨hle, -⟩ := palGet_cases s pf k
  · exact hg
  · exact absurd h (Nat.not_lt.2 hle)

theorem palGet_of_ge (h : s.entries pf.bpp ≤ k) : palGet s pf k = .error (.palOob k) := by
  obtain ⟨hlt, -⟩ | ⟨-, hg⟩ := palGet_cases s pf k
  · exact absurd h (Nat.not_le.2 hlt)
  · exact hg

/-- A slot held in a register is recorded in `FINFO` as it stands. -/
theorem State.raise_palOob_toNat (s : State) (w : Word) :
    s.raise (.palOob w.toNat) = { s with fault := true, cause := 6, finfo := w } := by
  simp [State.raise, EngineFault.code, EngineFault.info]

/-! ## The palette scan (42_indexed_codec R192) -/

/-- `pal_find` on the palette that the registers of `s` describe. -/
abbrev State.findSlot (s : State) (x : IndexedFormat) (pf : FixedFormat) (col : Color) : Option Nat :=
  palFind s.cfg pf s.mem s.palBase.toNat (paletteCount s pf) x.bits col

theorem findSlot_eq_some_iff : s.findSlot x pf col = some k ↔ s.LowestSlot x pf col k := by
  obtain ⟨hf, hno⟩ | ⟨i, hf, hlt, hcol, hlow⟩ :=
    palFind_cases s.cfg pf s.mem s.palBase.toNat (paletteCount s pf) x.bits col
  · rw [State.findSlot, hf]
    exact ⟨nofun, fun ⟨hlt, hcol, _⟩ => absurd hcol (hno k hlt)⟩
  · rw [State.findSlot, hf, Option.some.injEq]
    constructor
    · rintro rfl
      exact ⟨hlt, hcol, hlow⟩
    · rintro ⟨-, hcol', hlow'⟩
      exact Nat.le_antisymm (Nat.not_lt.1 fun hki => hlow k hki hcol') (Nat.not_lt.1 fun hik => hlow' i hik hcol)

theorem findSlot_eq_none_iff : s.findSlot x pf col = none ↔ s.NoSlot x pf col := by
  obtain ⟨hf, hno⟩ | ⟨i, hf, hlt, hcol, -⟩ :=
    palFind_cases s.cfg pf s.mem s.palBase.toNat (paletteCount s pf) x.bits col
  · exact iff_of_true hf hno
  · rw [State.findSlot, hf]
    exact iff_of_false nofun fun hno => hno i hlt hcol

/-- A slot the scan finds fits the element's field (42_indexed_codec R194). -/
theorem lt_of_lowestSlot (h : s.LowestSlot x pf col k) : k < 2 ^ x.bits :=
  h.1.trans_le (Nat.min_le_left ..)

theorem IndexedFormat.bits_le (x : IndexedFormat) : x.bits ≤ 8 := by cases x <;> decide

/-! ## The commands, check by check (42_indexed_codec R194, R196, R197) -/

theorem exec_palget_of_ok (hf : checkFmtPal s = .ok pf) (hw : checkPal s = .ok ()) :
    exec .palget s = s.finish (palGet s pf s.arg0.toNat >>= fun col => .ok (s.putColorOut col.toWord)) := by
  simp only [exec, execPalget, hf, hw, except_bind_ok]
  rfl

theorem exec_palget_of_format_error (hf : checkFmtPal s = .error e) : exec .palget s = .next (s.raise e) := by
  simp [exec, execPalget, hf]

theorem exec_palget_of_window_error (hf : checkFmtPal s = .ok pf) (hw : checkPal s = .error e) :
    exec .palget s = .next (s.raise e) := by
  simp [exec, execPalget, hf, hw]

theorem checkFmtIndexed_of_indexed (h : Format.ofCode s.bufFmt = some (.indexed x)) : checkFmtIndexed s = .ok x := by
  obtain ⟨y, hy, hc⟩ | ⟨hno, -⟩ := checkFmtIndexed_cases s
  · cases h.symm.trans hy
    exact hc
  · exact absurd h (hno x)

theorem checkFmtIndexed_of_not_indexed (h : ∀ x, Format.ofCode s.bufFmt ≠ some (.indexed x)) :
    checkFmtIndexed s = .error (.badFormat s.bufFmt) := by
  obtain ⟨y, hy, -⟩ | ⟨-, hc⟩ := checkFmtIndexed_cases s
  · exact absurd hy (h y)
  · exact hc

theorem exec_palfind_of_some (hx : checkFmtIndexed s = .ok x) (hf : checkFmtPal s = .ok pf)
    (hw : checkPal s = .ok ()) (hs : s.findSlot x pf (colorOperand s pf.ctype) = some k) :
    exec .palfind s = .next (s.putResult (BitVec.ofNat 32 k) false) := by
  simp only [exec, execPalfind, hx, hf, hw, hs, except_bind_ok]
  rfl

theorem exec_palfind_of_none (hx : checkFmtIndexed s = .ok x) (hf : checkFmtPal s = .ok pf)
    (hw : checkPal s = .ok ()) (hs : s.findSlot x pf (colorOperand s pf.ctype) = none) :
    exec .palfind s = .next (s.putResult 0xFFFFFFFF#32 true) := by
  simp only [exec, execPalfind, hx, hf, hw, hs, except_bind_ok]
  rfl

theorem exec_palfind_of_buffer_error (hx : checkFmtIndexed s = .error e) : exec .palfind s = .next (s.raise e) := by
  simp [exec, execPalfind, hx]

theorem exec_palfind_of_format_error (hx : checkFmtIndexed s = .ok x) (hf : checkFmtPal s = .error e) :
    exec .palfind s = .next (s.raise e) := by
  simp [exec, execPalfind, hx, hf]

theorem exec_palfind_of_window_error (hx : checkFmtIndexed s = .ok x) (hf : checkFmtPal s = .ok pf)
    (hw : checkPal s = .error e) : exec .palfind s = .next (s.raise e) := by
  simp [exec, execPalfind, hx, hf, hw]

/-- `SET` on an indexed buffer stores the slot its scan finds in the element's field. -/
theorem exec_set_of_lowestSlot (ho : s.OpensIndexed x pf) (hi : s.arg0.toNat < s.elements x.bits)
    (hk : s.LowestSlot x pf (colorOperand s pf.ctype) k) :
    exec .set s = .next
      (s.putMemory (fieldSet s.cfg s.mem s.bufBase.toNat s.arg0.toNat x.bits (BitVec.ofNat x.bits k)) false) := by
  obtain ⟨hx, hb, hpf, hw⟩ := ho
  have hopen : openBuffer s = .ok (.indexed x pf) := openBuffer_indexed hx hpf hb hw
  have hcount : ¬ bufferCount s (.indexed x pf) ≤ s.arg0.toNat := Nat.not_le.2 hi
  have hslot := findSlot_eq_some_iff.2 hk
  simp only [exec, execSet, hopen, except_bind_ok, setColor, if_neg hcount, BufferCodec.ctype, storeColor, hslot]
  rfl

end

/-! ## The statements -/

/-- Settles O45: the checks in their order, then the entry, which faults by its own bound. -/
theorem palgetReads : Obligations.PalgetReads := by
  refine ⟨decode_encode .palget, fun s => ⟨?entry, ?beyond, ?window, ?format⟩⟩
  case entry =>
    rintro pf ⟨hf, hw⟩ hlt
    rw [exec_palget_of_ok (checkFmtPal_of_fixed hf) (checkPal_of_fits hw), palGet_of_lt hlt]
    rfl
  case beyond =>
    rintro pf ⟨hf, hw⟩ hge
    rw [exec_palget_of_ok (checkFmtPal_of_fixed hf) (checkPal_of_fits hw), palGet_of_ge hge, except_bind_error,
      State.finish_error, State.raise_palOob_toNat]
  case window =>
    intro pf hf hw
    exact exec_palget_of_window_error (checkFmtPal_of_fixed hf) (checkPal_of_not_fits hw)
  case format =>
    intro hf
    exact exec_palget_of_format_error (checkFmtPal_of_not_fixed hf)

/-- The slot `PALFIND` answers is the field `SET` leaves in the element. -/
theorem set_stores_palfind_result {s t : State} {x : IndexedFormat} {pf : FixedFormat} (ho : s.OpensIndexed x pf)
    (hi : s.arg0.toNat < s.elements x.bits) (ht : exec .palfind s = .next t) (hfound : t.noMatch = false) :
    ∃ u : State, exec .set s = .next u ∧
      (fieldGet s.cfg u.mem s.bufBase.toNat s.arg0.toNat x.bits).toNat = t.result.toNat := by
  have ⟨hx, _, hpf, hw⟩ := ho
  have hx' := checkFmtIndexed_of_indexed hx
  have hpf' := checkFmtPal_of_fixed hpf
  have hw' := checkPal_of_fits hw
  cases hs : s.findSlot x pf (colorOperand s pf.ctype) with
  | none =>
    cases (exec_palfind_of_none hx' hpf' hw' hs).symm.trans ht
    cases hfound
  | some k =>
    cases (exec_palfind_of_some hx' hpf' hw' hs).symm.trans ht
    have hk := findSlot_eq_some_iff.1 hs
    have hfield : k < 2 ^ x.bits := lt_of_lowestSlot hk
    have hword : k < 2 ^ 32 := hfield.trans_le (Nat.pow_le_pow_right (by decide) (x.bits_le.trans (by decide)))
    refine ⟨_, exec_set_of_lowestSlot ho hi hk, ?_⟩
    rw [State.putMemory_mem, State.putResult_result, fieldGet_fieldSet_same _ _ _ _ x.fieldWidth,
      BitVec.toNat_ofNat, BitVec.toNat_ofNat, Nat.mod_eq_of_lt hfield, Nat.mod_eq_of_lt hword]

/-- Settles O46: the checks in their order, then the scan, which is the one `SET` makes. -/
theorem palfindScans : Obligations.PalfindScans := by
  refine ⟨decode_encode .palfind, fun s => ⟨?scan, ?window, ?format, ?buffer, ?stored⟩⟩
  case scan =>
    rintro x pf hx ⟨hf, hw⟩
    have hx' := checkFmtIndexed_of_indexed hx
    have hf' := checkFmtPal_of_fixed hf
    have hw' := checkPal_of_fits hw
    exact ⟨fun k hk => exec_palfind_of_some hx' hf' hw' (findSlot_eq_some_iff.2 hk),
      fun hno => exec_palfind_of_none hx' hf' hw' (findSlot_eq_none_iff.2 hno)⟩
  case window =>
    intro x pf hx hf hw
    exact exec_palfind_of_window_error (checkFmtIndexed_of_indexed hx) (checkFmtPal_of_fixed hf)
      (checkPal_of_not_fits hw)
  case format =>
    intro x hx hf
    exact exec_palfind_of_format_error (checkFmtIndexed_of_indexed hx) (checkFmtPal_of_not_fixed hf)
  case buffer =>
    intro hx
    exact exec_palfind_of_buffer_error (checkFmtIndexed_of_not_indexed hx)
  case stored =>
    intro x pf t ho hi ht hfound
    exact set_stores_palfind_result ho hi ht hfound

end Sys2Proof.Machine
end

section
/-! PROOFS. The statements of 43_buffer: the byte length of a number of elements (R211). -/

namespace Sys2Proof.Machine

section
variable {s : State} {f : Format} {e : EngineFault}

/-! ## `CAPB` by its format check and its length (43_buffer R211) -/

theorem exec_capb_of_lt (h : checkFmtBuf s = .ok f) (hlt : capBytes s.arg0.toNat f.bpp < 2 ^ 32) :
    exec .capb s = .next (s.putResult (BitVec.ofNat 32 (capBytes s.arg0.toNat f.bpp)) false) := by
  obtain ⟨g, hg, -, hx⟩ | ⟨g, hg, hge, -⟩ | ⟨e, he, -⟩ := exec_capb_cases s
  · cases h.symm.trans hg; exact hx
  · cases h.symm.trans hg; exact absurd hlt (Nat.not_lt.2 hge)
  · cases h.symm.trans he

theorem exec_capb_of_ge (h : checkFmtBuf s = .ok f) (hge : 2 ^ 32 ≤ capBytes s.arg0.toNat f.bpp) :
    exec .capb s = .next (s.raise (.argRange s.arg0)) := by
  obtain ⟨g, hg, hlt, -⟩ | ⟨-, -, -, hx⟩ | ⟨e, he, -⟩ := exec_capb_cases s
  · cases h.symm.trans hg; exact absurd hlt (Nat.not_lt.2 hge)
  · exact hx
  · cases h.symm.trans he

theorem exec_capb_of_error (h : checkFmtBuf s = .error e) : exec .capb s = .next (s.raise e) := by
  obtain ⟨g, hg, -⟩ | ⟨g, hg, -⟩ | ⟨e', he, hx⟩ := exec_capb_cases s
  · cases h.symm.trans hg
  · cases h.symm.trans hg
  · cases h.symm.trans he; exact hx

end

/-! ## The statement -/

/-- Settles O22: the format check comes first, then the length, which either fits the result register or faults. -/
theorem capbBytes : Obligations.CapbBytes := by
  refine ⟨decode_encode .capb, fun s => ⟨fun f hf => ⟨?fits, ?tooLong⟩, ?format⟩⟩
  case fits => exact exec_capb_of_lt (checkFmtBuf_of_ofCode_some hf)
  case tooLong => exact exec_capb_of_ge (checkFmtBuf_of_ofCode_some hf)
  case format => exact fun hf => exec_capb_of_error (checkFmtBuf_of_ofCode_none hf)

end Sys2Proof.Machine
end

section
/-! PROOFS. The statements of 44_pixel_view: the row-major index (R220, R222), and `VIEW_H`, never read (R225). -/

namespace Sys2Proof.Machine

/-! ## `XLATE` by its coordinate test (44_pixel_view R220, R222) -/

section
variable {s : State} {e : EngineFault}

theorem exec_xlate_of_ok (h : checkPoint s = .ok ()) :
    exec .xlate s = .next (s.putResult (BitVec.ofNat 32 (viewIndex s)) false) := by
  obtain ⟨-, hx⟩ | ⟨e, he, -⟩ := exec_xlate_cases s
  · exact hx
  · cases h.symm.trans he

theorem exec_xlate_of_error (h : checkPoint s = .error e) : exec .xlate s = .next (s.raise e) := by
  obtain ⟨hok, -⟩ | ⟨e', he, hx⟩ := exec_xlate_cases s
  · cases h.symm.trans hok
  · cases h.symm.trans he; exact hx

theorem checkPoint_of_fits (h : s.PointFits) : checkPoint s = .ok () := by
  obtain ⟨hx, hy⟩ := h
  obtain ⟨-, -, hc⟩ | ⟨hge, -⟩ | ⟨-, hge, -⟩ := checkPoint_cases s
  · exact hc
  · exact absurd hx (Nat.not_lt.2 hge)
  · exact absurd hy (Nat.not_lt.2 hge)

theorem checkPoint_of_x_ge (h : 2 ^ 16 ≤ s.arg0.toNat) : checkPoint s = .error (.argRange s.arg0) := by
  obtain ⟨hlt, -⟩ | ⟨-, hc⟩ | ⟨hlt, -⟩ := checkPoint_cases s
  · exact absurd h (Nat.not_le.2 hlt)
  · exact hc
  · exact absurd h (Nat.not_le.2 hlt)

theorem checkPoint_of_y_ge (hx : s.arg0.toNat < 2 ^ 16) (hy : 2 ^ 16 ≤ s.arg1.toNat) :
    checkPoint s = .error (.argRange s.arg1) := by
  obtain ⟨-, hlt, -⟩ | ⟨hge, -⟩ | ⟨-, -, hc⟩ := checkPoint_cases s
  · exact absurd hy (Nat.not_le.2 hlt)
  · exact absurd hx (Nat.not_lt.2 hge)
  · exact hc

/-- The index of a point fits the result register: `0xFFFF + 0xFFFF * 0xFFFF` is its greatest value. -/
theorem pointIndex_le (h : s.PointFits) : s.pointIndex ≤ 0xFFFF0000 := by
  obtain ⟨hx, hy⟩ := h
  have hrows : s.arg1.toNat * s.viewW.toNat ≤ 0xFFFF * 0xFFFF :=
    Nat.mul_le_mul (Nat.le_of_lt_succ hy) (Nat.le_of_lt_succ s.viewW.isLt)
  have hcol : s.arg0.toNat ≤ 0xFFFF := Nat.le_of_lt_succ hx
  exact Nat.add_le_add hcol hrows

end

/-- Settles O24: `XLATE` is the coordinate test, which tries x before y, then the index. -/
theorem xlateIndex : Obligations.XlateIndex := by
  refine ⟨decode_encode .xlate, fun s => ⟨?point, ?x, ?y⟩⟩
  case point => exact fun h => ⟨pointIndex_le h, exec_xlate_of_ok (checkPoint_of_fits h)⟩
  case x => exact fun h => exec_xlate_of_error (checkPoint_of_x_ge h)
  case y => exact fun hx hy => exec_xlate_of_error (checkPoint_of_y_ge hx hy)

/-! ## Commands on states that differ by a change of state `g` -/

section
variable {s t : State} {g : State → State}

/-- A change of state that the fault record does not see carries over from a command's results to its end. -/
theorem State.finish_map {r r' : Except EngineFault State} (hg : ∀ e, (g s).raise e = g (s.raise e))
    (hr : r' = g <$> r) (h : s.finish r = .next t) : (g s).finish r' = .next (g t) := by
  subst hr
  cases r with
  | ok u => cases h; rfl
  | error e => cases h; exact congrArg _ (hg e)

/-- After a part that both states answer alike, it is enough that the rest of the command agrees. -/
theorem except_bind_map {α : Type} (x : Except EngineFault α) {k k' : α → Except EngineFault State}
    (hk : ∀ a, k' a = g <$> k a) : (x >>= k') = g <$> (x >>= k) := by
  rw [map_bind]
  exact bind_congr hk

/-- The walk of `INIT` depends on the state only through its element writes. -/
theorem fillColors_congr {s' : State} {b : BufferCodec} {col : Color}
    (h : ∀ m i, storeColor s' b m i col = storeColor s b m i col) (i n : Nat) (m : Memory) (ok : Bool) :
    fillColors s' b col i n m ok = fillColors s b col i n m ok := by
  induction n generalizing i m ok with
  | zero => rfl
  | succ n ih => rw [fillColors_succ, fillColors_succ, h, ih]

end

/-! ## `VIEW_H` (44_pixel_view R225) -/

/-- The state with another value in `VIEW_H`. -/
def State.withViewH (v : BitVec 16) (s : State) : State := { s with viewH := v }

section
variable {v : BitVec 16} {s t : State}

theorem finish_withViewH {r r' : Except EngineFault State} (hr : r' = State.withViewH v <$> r)
    (h : s.finish r = .next t) : (s.withViewH v).finish r' = .next (t.withViewH v) :=
  State.finish_map (fun _ => rfl) hr h

/-- Each part of a command, and each of its results, is the same on the state with another `VIEW_H`; so is their
sequence. -/
theorem exec_withViewH {i : Instr} (h : exec i s = .next t) : exec i (s.withViewH v) = .next (t.withViewH v) := by
  cases i with
  | numc => exact finish_withViewH (except_bind_map (checkFmtBuf s) fun _ => rfl) h
  | palnum => exact finish_withViewH (except_bind_map (checkFmtPal s) fun _ => rfl) h
  | xlate => exact finish_withViewH (except_bind_map (checkPoint s) fun _ => rfl) h
  | capb =>
    obtain ⟨f, hf, hlt, hx⟩ | ⟨f, hf, hge, hx⟩ | ⟨e, he, hx⟩ := exec_capb_cases s <;> cases hx.symm.trans h
    · exact exec_capb_of_lt (s := s.withViewH v) hf hlt
    · exact exec_capb_of_ge (s := s.withViewH v) hf hge
    · exact exec_capb_of_error (s := s.withViewH v) he
  | get =>
    exact finish_withViewH (except_bind_map (openBuffer s) fun b =>
      except_bind_map (getColor s b s.arg0.toNat) fun _ => rfl) h
  | set =>
    exact finish_withViewH (except_bind_map (openBuffer s) fun b =>
      except_bind_map (setColor s b s.arg0.toNat (colorOperand s b.ctype)) fun _ => rfl) h
  | init =>
    refine finish_withViewH (except_bind_map (openBuffer s) fun b => ?_) h
    rw [fillColors_congr (s := s) (s' := s.withViewH v) fun _ _ => rfl]
    rfl
  | pget =>
    exact finish_withViewH (except_bind_map (openBuffer s) fun b => except_bind_map (checkPoint s) fun _ =>
      except_bind_map (getColor s b (viewIndex s)) fun _ => rfl) h
  | pset =>
    exact finish_withViewH (except_bind_map (openBuffer s) fun b => except_bind_map (checkPoint s) fun _ =>
      except_bind_map (setColor s b (viewIndex s) (colorOperand s b.ctype)) fun _ => rfl) h
  | palget =>
    exact finish_withViewH (except_bind_map (checkFmtPal s) fun pf => except_bind_map (checkPal s) fun _ =>
      except_bind_map (palGet s pf s.arg0.toNat) fun _ => rfl) h
  | palfind =>
    refine finish_withViewH (except_bind_map (checkFmtIndexed s) fun x => except_bind_map (checkFmtPal s) fun pf =>
      except_bind_map (checkPal s) fun _ => ?_) h
    simp only [State.withViewH, paletteCount, colorOperand]
    split <;> rfl
  | cvtRgbGs | cvtGsRgb | cvtGsRgba | cvtRgbaRgb | cvtRgbaGsa | cvtGsaRgba | cvtBwGs | cvtGsBw =>
    cases h
    rfl

end

/-- Settles O56, command by command: no part of one depends on `VIEW_H`, and none writes it. -/
theorem viewHeightNeverRead : Obligations.ViewHeightNeverRead := fun _ _ _ _ h => exec_withViewH h

end Sys2Proof.Machine
end

section
/-! PROOFS. The statements of 60_exceptions: illegal command words (R242), the first fault of a command (R253), what a
fault leaves unchanged (R246, R256). -/

namespace Sys2Proof.Machine

/-! ## Illegal command words (30_encoding R87, R88; 60_exceptions R242) -/

/-- The words of 30_encoding R87 and R88: a reserved opcode byte, or one of bits [31:8] set. -/
abbrev ReservedWord (n : Nat) : Prop :=
  256 ≤ n ∨ n = 0x00 ∨ n = 0x06 ∨ n = 0x07 ∨ (0x0B ≤ n ∧ n ≤ 0x0F) ∨ (0x13 ≤ n ∧ n ≤ 0x1F) ∨ 0x28 ≤ n

theorem not_reservedWord_encode (i : Instr) : ¬ ReservedWord (encode i).toNat := by cases i <;> decide

theorem runCommand_of_reservedWord {run : Instr → State → Host.Outcome State Fault Refusal} {w : Word} (s : State)
    (h : ReservedWord w.toNat) : runCommand run w s = .next (s.raise (.illegalCmd w)) := by
  obtain ⟨i, hi, -⟩ | ⟨e, -, hx⟩ := runCommand_cases (run := run) w s
  · rw [← encode_of_decode hi] at h
    exact absurd h (not_reservedWord_encode i)
  · exact hx

/-- Settles O4: the step is a write to `CMD`, and the word of no command is reserved. -/
theorem illegalWordFaults : Obligations.IllegalWordFaults := by
  intro s w rest hf hp hw
  calc step s = perform exec (.regWrite Reg.cmd.offset w) { s with program := rest } := step_cons hp
    _ = runCommand exec w { s with program := rest } := regWrite_cmd w hf
    _ = .next { s with program := rest, fault := true, cause := 1, finfo := w } := runCommand_of_reservedWord _ hw

/-! ## Format codes by number (30_encoding Table 30-3) -/

/-- The format is one of the four indexed ones. -/
def Format.isIndexed : Format → Bool
  | .fixed _ => false
  | .indexed _ => true

theorem codeKnown_eq : ∀ code : BitVec 8, codeKnown code = (Format.ofCode code).isSome := by decide

theorem codeIndexed_eq : ∀ code : BitVec 8, codeIndexed code = (Format.ofCode code).any Format.isIndexed := by decide

theorem codeFixed_eq : ∀ code : BitVec 8, codeFixed code = (Format.ofCode code).any (!·.isIndexed) := by decide

section
variable {code : BitVec 8}

theorem codeIndexed_of_fixed {f : FixedFormat} (h : Format.ofCode code = some (.fixed f)) :
    codeIndexed code = false := by
  simp [codeIndexed_eq, h, Format.isIndexed]

theorem codeIndexed_of_indexed {x : IndexedFormat} (h : Format.ofCode code = some (.indexed x)) :
    codeIndexed code = true := by
  simp [codeIndexed_eq, h, Format.isIndexed]

theorem codeIndexed_of_not_indexed (h : ∀ x, Format.ofCode code ≠ some (.indexed x)) : codeIndexed code = false := by
  rw [codeIndexed_eq]
  cases hc : Format.ofCode code with
  | none => rfl
  | some f =>
    cases f with
    | fixed f => rfl
    | indexed x => exact absurd hc (h x)

theorem codeFixed_of_fixed {f : FixedFormat} (h : Format.ofCode code = some (.fixed f)) : codeFixed code = true := by
  simp [codeFixed_eq, h, Format.isIndexed]

theorem codeFixed_of_not_fixed (h : ∀ f, Format.ofCode code ≠ some (.fixed f)) : codeFixed code = false := by
  rw [codeFixed_eq]
  cases hc : Format.ofCode code with
  | none => rfl
  | some f =>
    cases f with
    | fixed f => exact absurd hc (h f)
    | indexed x => rfl

theorem bppOfCode_of_some {f : Format} (h : Format.ofCode code = some f) : bppOfCode code = f.bpp := by
  unfold Format.ofCode at h
  split at h <;> cases h <;> rfl

end

/-! ## The record of a part of a command, and of a list of tests (60_exceptions R246, R253) -/

/-- What a part of a command has recorded: the cause and the value of its fault, if it answers one. -/
def recorded {α : Type} : Except EngineFault α → Option (BitVec 4 × Word)
  | .ok _ => none
  | .error e => some (e.code, e.info)

/-- The cause and the value of the first test that fires. -/
def firstRecord (ts : List FaultTest) : Option (BitVec 4 × Word) := (ts.find? (·.fires)).map fun t => (t.code, t.info)

section
variable {α β : Type} {s : State} {t : FaultTest} {ts us : List FaultTest} {x : Except EngineFault α}

theorem firstRecord_cons_of_fires (h : t.fires = true) : firstRecord (t :: ts) = some (t.code, t.info) := by
  simp [firstRecord, h]

theorem firstRecord_cons_of_not_fires (h : t.fires = false) : firstRecord (t :: ts) = firstRecord ts := by
  simp [firstRecord, h]

theorem recorded_of_ok {a : α} (hx : x = .ok a) (ht : t.fires = false) : recorded x = firstRecord [t] := by
  rw [hx, firstRecord_cons_of_not_fires ht]
  rfl

theorem recorded_of_error {e : EngineFault} (hx : x = .error e) (ht : t.fires = true) (hc : e.code = t.code)
    (hi : e.info = t.info) : recorded x = firstRecord [t] := by
  rw [hx, firstRecord_cons_of_fires ht, ← hc, ← hi]
  rfl

theorem firstRecord_append : firstRecord (ts ++ us) = (firstRecord ts).or (firstRecord us) := by
  simp [firstRecord, Option.map_or]

/-- The tests of a sequence are the tests of its parts, in order. -/
theorem recorded_bind {k : α → Except EngineFault β} (hx : recorded x = firstRecord ts)
    (hk : ∀ a, x = .ok a → recorded (k a) = firstRecord us) : recorded (x >>= k) = firstRecord (ts ++ us) := by
  rw [firstRecord_append, ← hx]
  cases x with
  | ok a => exact hk a rfl
  | error e => rfl

theorem firstRecord_whenIndexed_of_fixed {f : FixedFormat} (h : Format.ofCode s.bufFmt = some (.fixed f)) :
    firstRecord (whenIndexed s t :: ts) = firstRecord ts :=
  firstRecord_cons_of_not_fires (by simp [whenIndexed, codeIndexed_of_fixed h])

theorem whenIndexed_of_indexed {y : IndexedFormat} (h : Format.ofCode s.bufFmt = some (.indexed y)) :
    whenIndexed s t = t := by
  simp [whenIndexed, codeIndexed_of_indexed h]

end

/-! ## Each check is its test (60_exceptions R244, R247 to R252) -/

theorem ofCode_of_checkFmtBuf {s : State} {f : Format} (h : checkFmtBuf s = .ok f) :
    Format.ofCode s.bufFmt = some f := by
  obtain ⟨g, hg, hc⟩ | ⟨-, hc⟩ := checkFmtBuf_cases s <;> cases hc.symm.trans h
  exact hg

theorem ofCode_of_checkFmtPal {s : State} {pf : FixedFormat} (h : checkFmtPal s = .ok pf) :
    Format.ofCode s.palFmt = some (.fixed pf) := by
  obtain ⟨g, hg, hc⟩ | ⟨-, hc⟩ := checkFmtPal_cases s <;> cases hc.symm.trans h
  exact hg

section
variable (s : State)

theorem recorded_checkFmtBuf : recorded (checkFmtBuf s) = firstRecord [bufferFormatTest s] := by
  obtain ⟨f, hf, hc⟩ | ⟨hf, hc⟩ := checkFmtBuf_cases s
  · exact recorded_of_ok hc (by simp [bufferFormatTest, codeKnown_eq, hf])
  · exact recorded_of_error hc (by simp [bufferFormatTest, codeKnown_eq, hf]) rfl rfl

theorem recorded_checkFmtPal : recorded (checkFmtPal s) = firstRecord [paletteFormatTest s] := by
  obtain ⟨f, hf, hc⟩ | ⟨hf, hc⟩ := checkFmtPal_cases s
  · exact recorded_of_ok hc (by simp [paletteFormatTest, codeFixed_of_fixed hf])
  · exact recorded_of_error hc (by simp [paletteFormatTest, codeFixed_of_not_fixed hf]) rfl rfl

theorem recorded_checkFmtIndexed :
    recorded (checkFmtIndexed s) = firstRecord [⟨!codeIndexed s.bufFmt, 2, s.bufFmt.setWidth 32⟩] := by
  obtain ⟨y, hy, hc⟩ | ⟨hy, hc⟩ := checkFmtIndexed_cases s
  · exact recorded_of_ok hc (by simp [codeIndexed_of_indexed hy])
  · exact recorded_of_error hc (by simp [codeIndexed_of_not_indexed hy]) rfl rfl

theorem recorded_checkBuf : recorded (checkBuf s) = firstRecord [bufferWindowTest s] := by
  obtain ⟨hw, hc⟩ | ⟨hw, hc⟩ := checkBuf_cases s
  · exact recorded_of_ok hc (decide_eq_false (Nat.not_lt.2 hw))
  · exact recorded_of_error hc (decide_eq_true hw) rfl rfl

theorem recorded_checkPal : recorded (checkPal s) = firstRecord [paletteWindowTest s] := by
  obtain ⟨hw, hc⟩ | ⟨hw, hc⟩ := checkPal_cases s
  · exact recorded_of_ok hc (decide_eq_false (Nat.not_lt.2 hw))
  · exact recorded_of_error hc (decide_eq_true hw) rfl rfl

theorem recorded_checkPoint : recorded (checkPoint s) = firstRecord (pointTests s) := by
  obtain ⟨hx, hy, hc⟩ | ⟨hx, hc⟩ | ⟨hx, hy, hc⟩ := checkPoint_cases s
  · rw [pointTests, firstRecord_cons_of_not_fires (decide_eq_false (Nat.not_le.2 hx))]
    exact recorded_of_ok hc (decide_eq_false (Nat.not_le.2 hy))
  · rw [pointTests, firstRecord_cons_of_fires (decide_eq_true hx), hc]
    rfl
  · rw [pointTests, firstRecord_cons_of_not_fires (decide_eq_false (Nat.not_le.2 hx))]
    exact recorded_of_error hc (decide_eq_true hy) rfl rfl

/-- The opening checks run the palette's tests exactly when the buffer's format is indexed. -/
theorem recorded_openBuffer : recorded (openBuffer s) = firstRecord (openTests s) := by
  refine recorded_bind (ts := [bufferFormatTest s]) (recorded_checkFmtBuf s) fun f hf => ?_
  have hg := ofCode_of_checkFmtBuf hf
  cases f with
  | fixed f =>
    rw [firstRecord_whenIndexed_of_fixed hg]
    refine recorded_bind (ts := [bufferWindowTest s]) (recorded_checkBuf s) fun _ _ => ?_
    rw [firstRecord_whenIndexed_of_fixed hg]
    rfl
  | indexed y =>
    rw [whenIndexed_of_indexed hg, whenIndexed_of_indexed hg]
    exact recorded_bind (ts := [paletteFormatTest s]) (recorded_checkFmtPal s) fun pf _ =>
      recorded_bind (ts := [bufferWindowTest s]) (recorded_checkBuf s) fun _ _ =>
        recorded_bind (us := []) (recorded_checkPal s) fun _ _ => rfl

theorem recorded_palGet {pf : FixedFormat} (hf : Format.ofCode s.palFmt = some (.fixed pf)) (k : Nat) :
    recorded (palGet s pf k) = firstRecord [slotTest s k] := by
  have hcount : s.palLen.toNat * 8 / bppOfCode s.palFmt = paletteCount s pf := by rw [bppOfCode_of_some hf]; rfl
  rw [slotTest, hcount]
  obtain ⟨hk, hc⟩ | ⟨hk, hc⟩ := palGet_cases s pf k
  · exact recorded_of_ok hc (decide_eq_false (Nat.not_le.2 hk))
  · exact recorded_of_error hc (decide_eq_true hk) rfl rfl

end

section
variable {s : State} {b : BufferCodec}

/-- The element count the index test speaks of is the opened buffer's. -/
theorem elements_eq_bufferCount (ho : openBuffer s = .ok b) :
    s.bufLen.toNat * 8 / bppOfCode s.bufFmt = bufferCount s b := by
  obtain ⟨-, ⟨f, rfl, hf⟩ | ⟨y, pf, rfl, hy, -⟩⟩ := openBuffer_eq_ok ho
  · rw [bppOfCode_of_some hf]; rfl
  · rw [bppOfCode_of_some hy]; rfl

theorem indexTest_fires_iff (ho : openBuffer s = .ok b) (i : Nat) :
    (indexTest s i).fires = true ↔ bufferCount s b ≤ i := by
  rw [← elements_eq_bufferCount ho]
  exact decide_eq_true_iff

theorem indexTest_not_fires (ho : openBuffer s = .ok b) {i : Nat} (hi : i < bufferCount s b) :
    (indexTest s i).fires = false :=
  Bool.eq_false_iff.2 fun h => Nat.not_le.2 hi ((indexTest_fires_iff ho i).1 h)

theorem recorded_setColor (ho : openBuffer s = .ok b) (i : Nat) (col : Color) :
    recorded (setColor s b i col) = firstRecord [indexTest s i] := by
  obtain ⟨hi, hc⟩ | ⟨hi, hc⟩ := setColor_cases s b i col
  · exact recorded_of_ok hc (indexTest_not_fires ho hi)
  · exact recorded_of_error hc ((indexTest_fires_iff ho i).2 hi) rfl rfl

theorem storedSlot_of_indexed {y : IndexedFormat} (hy : Format.ofCode s.bufFmt = some (.indexed y)) (i : Nat) :
    storedSlot s i = (fieldGet s.cfg s.mem s.bufBase.toNat i y.bits).toNat := by
  rw [storedSlot, bppOfCode_of_some hy]
  rfl

/-- An element read tests the index, then the slot the element holds if the buffer is indexed. -/
theorem recorded_getColor (ho : openBuffer s = .ok b) (i : Nat) :
    recorded (getColor s b i) = firstRecord [indexTest s i, whenIndexed s (slotTest s (storedSlot s i))] := by
  obtain hi | hi := le_or_gt (bufferCount s b) i
  · rw [getColor_of_ge hi, firstRecord_cons_of_fires ((indexTest_fires_iff ho i).2 hi)]
    rfl
  rw [firstRecord_cons_of_not_fires (indexTest_not_fires ho hi)]
  obtain ⟨-, ⟨f, rfl, hf⟩ | ⟨y, pf, rfl, hy, hpf, -⟩⟩ := openBuffer_eq_ok ho
  · rw [getColor_fixed_of_lt hi, firstRecord_whenIndexed_of_fixed hf]
    rfl
  · rw [getColor_indexed_of_lt hi, whenIndexed_of_indexed hy, storedSlot_of_indexed hy]
    exact recorded_palGet s hpf _

end

/-! ## Each command is its list of tests (60_exceptions R253) -/

/-- The fault record of `u` is that of `s`. -/
abbrev State.SameRecord (s u : State) : Prop := u.fault = s.fault ∧ u.cause = s.cause ∧ u.finfo = s.finfo

/-- The body of a command makes the tests `ts`, in their order, and its results leave the fault record alone. -/
structure Tested (s : State) (ts : List FaultTest) (r : Except EngineFault State) : Prop where
  records : recorded r = firstRecord ts
  sameRecord : ∀ u, r = .ok u → s.SameRecord u

namespace Tested
variable {α : Type} {s u : State} {ts us : List FaultTest} {x : Except EngineFault α} {r : Except EngineFault State}

theorem ok (h : s.SameRecord u) : Tested s [] (.ok u) := ⟨rfl, fun _ hu => by cases hu; exact h⟩

theorem bind {k : α → Except EngineFault State} (hx : recorded x = firstRecord ts)
    (hk : ∀ a, x = .ok a → Tested s us (k a)) : Tested s (ts ++ us) (x >>= k) := by
  refine ⟨recorded_bind hx fun a ha => (hk a ha).records, fun u hu => ?_⟩
  obtain ⟨a, ha, hu⟩ := except_bind_eq_ok hu
  exact (hk a ha).sameRecord u hu

/-- A command whose last check is `x` and whose results `g` leave the fault record alone. -/
theorem last {g : α → State} (hx : recorded x = firstRecord ts) (hg : ∀ a, s.SameRecord (g a)) :
    Tested s ts (x >>= fun a => pure (g a)) := by
  rw [← List.append_nil ts]
  exact bind hx fun a _ => ok (hg a)

/-- The first test that fires is the fault record the command ends with. -/
theorem finish_of_find_some {t : FaultTest} (h : Tested s ts r) (ht : ts.find? (·.fires) = some t) :
    s.finish r = .next { s with fault := true, cause := t.code, finfo := t.info } := by
  obtain ⟨hrec, -⟩ := h
  rw [firstRecord, ht, Option.map_some] at hrec
  cases r with
  | ok u => cases hrec
  | error e =>
    injection hrec with hrec
    injection hrec with hcode hinfo
    rw [State.finish_error, State.raise, hcode, hinfo]

/-- With no test that fires the command completes. -/
theorem finish_of_find_none (h : Tested s ts r) (ht : ts.find? (·.fires) = none) :
    ∃ u, s.finish r = .next u ∧ s.SameRecord u := by
  obtain ⟨hrec, hsame⟩ := h
  rw [firstRecord, ht, Option.map_none] at hrec
  cases r with
  | ok u => exact ⟨u, rfl, hsame u rfl⟩
  | error e => cases hrec

end Tested

/-- Every command is a body that makes the command's tests in their order. -/
theorem exec_eq_finish_tested (i : Instr) (s : State) :
    ∃ r, exec i s = s.finish r ∧ Tested s (faultTests i s) r := by
  cases i with
  | numc => exact ⟨_, rfl, .last (recorded_checkFmtBuf s) fun _ => ⟨rfl, rfl, rfl⟩⟩
  | palnum => exact ⟨_, rfl, .last (recorded_checkFmtPal s) fun _ => ⟨rfl, rfl, rfl⟩⟩
  | xlate => exact ⟨_, rfl, .last (recorded_checkPoint s) fun _ => ⟨rfl, rfl, rfl⟩⟩
  | init => exact ⟨_, rfl, .last (recorded_openBuffer s) fun _ => ⟨rfl, rfl, rfl⟩⟩
  | get =>
    exact ⟨_, rfl, .bind (recorded_openBuffer s) fun b hb =>
      .last (recorded_getColor hb _) fun _ => ⟨rfl, rfl, rfl⟩⟩
  | set =>
    exact ⟨_, rfl, .bind (recorded_openBuffer s) fun b hb =>
      .last (recorded_setColor hb _ _) fun _ => ⟨rfl, rfl, rfl⟩⟩
  | pget =>
    refine ⟨_, rfl, ?_⟩
    rw [faultTests, List.append_assoc]
    exact .bind (recorded_openBuffer s) fun b hb => .bind (recorded_checkPoint s) fun _ _ =>
      .last (recorded_getColor hb _) fun _ => ⟨rfl, rfl, rfl⟩
  | pset =>
    refine ⟨_, rfl, ?_⟩
    rw [faultTests, List.append_assoc]
    exact .bind (recorded_openBuffer s) fun b hb => .bind (recorded_checkPoint s) fun _ _ =>
      .last (recorded_setColor hb _ _) fun _ => ⟨rfl, rfl, rfl⟩
  | palget =>
    exact ⟨_, rfl, .bind (recorded_checkFmtPal s) fun pf hf => .bind (recorded_checkPal s) fun _ _ =>
      .last (recorded_palGet s (ofCode_of_checkFmtPal hf) _) fun _ => ⟨rfl, rfl, rfl⟩⟩
  | palfind =>
    refine ⟨_, rfl, .bind (recorded_checkFmtIndexed s) fun y _ => .bind (recorded_checkFmtPal s) fun pf _ =>
      .bind (us := []) (recorded_checkPal s) fun _ _ => ?_⟩
    split <;> exact .ok ⟨rfl, rfl, rfl⟩
  | capb =>
    refine ⟨_, rfl, .bind (recorded_checkFmtBuf s) fun f hf => ?_⟩
    rw [bppOfCode_of_some (ofCode_of_checkFmtBuf hf)]
    dsimp only
    split
    · next hr => exact ⟨recorded_of_error rfl (decide_eq_true hr) rfl rfl, nofun⟩
    · next hr => exact ⟨recorded_of_ok rfl (decide_eq_false hr), fun u hu => by cases hu; exact ⟨rfl, rfl, rfl⟩⟩
  | cvtRgbGs | cvtGsRgb | cvtGsRgba | cvtRgbaRgb | cvtRgbaGsa | cvtGsaRgba | cvtBwGs | cvtGsBw =>
    exact ⟨.ok _, rfl, .ok ⟨rfl, rfl, rfl⟩⟩

/-! ## The order of the tests (60_exceptions R241, R253) -/

/-- The cause codes of a command's tests, in the order the command makes them. -/
def testCodes : Instr → List (BitVec 4)
  | .numc | .palnum => [2]
  | .get => [2, 2, 3, 3, 5, 6]
  | .set => [2, 2, 3, 3, 5]
  | .init => [2, 2, 3, 3]
  | .capb => [2, 4]
  | .xlate => [4, 4]
  | .pget => [2, 2, 3, 3, 4, 4, 5, 6]
  | .pset => [2, 2, 3, 3, 4, 4, 5]
  | .palget => [2, 3, 6]
  | .palfind => [2, 2, 3]
  | .cvtRgbGs | .cvtGsRgb | .cvtGsRgba | .cvtRgbaRgb | .cvtRgbaGsa | .cvtGsaRgba | .cvtBwGs | .cvtGsBw => []

theorem map_code_faultTests (i : Instr) (s : State) : (faultTests i s).map (·.code) = testCodes i := by cases i <;> rfl

theorem testCodes_ascending (i : Instr) : (testCodes i).Pairwise fun a b => a.toNat ≤ b.toNat := by
  cases i <;> decide

theorem testCodes_range (i : Instr) : ∀ c ∈ testCodes i, 2 ≤ c.toNat ∧ c.toNat ≤ 6 := by cases i <;> decide

theorem code_range_of_firstFault {i : Instr} {s : State} {t : FaultTest} (h : firstFault i s = some t) :
    2 ≤ t.code.toNat ∧ t.code.toNat ≤ 6 := by
  apply testCodes_range i
  rw [← map_code_faultTests i s]
  exact List.mem_map_of_mem (List.mem_of_find?_eq_some h)

/-! ## The statements -/

/-- Settles O50: the body of each command makes the command's tests in the order of their codes. -/
theorem firstFaultDecides : Obligations.FirstFaultDecides := by
  intro i s
  obtain ⟨r, hx, hr⟩ := exec_eq_finish_tested i s
  rw [hx]
  refine ⟨?ascending, fun t => hr.finish_of_find_some, hr.finish_of_find_none⟩
  case ascending =>
    have h := testCodes_ascending i
    rwa [← map_code_faultTests i s, List.pairwise_map] at h

/-- Settles O51 from O50: a command that ends faulted had a test that fired, and recorded that one alone. -/
theorem faultsArePrecise : Obligations.FaultsArePrecise := by
  intro i s t hs hx ht
  obtain ⟨-, hfires, hnone⟩ := firstFaultDecides i s
  cases hf : firstFault i s with
  | some f =>
    cases (hfires f hf).symm.trans hx
    exact ⟨rfl, code_range_of_firstFault hf⟩
  | none =>
    obtain ⟨u, hu, hfault, -⟩ := hnone hf
    cases hu.symm.trans hx
    exact absurd (ht.symm.trans (hfault.trans hs)) (by decide)

end Sys2Proof.Machine
end

section
/-! PROOFS. The command words against their commands (30_encoding R82, R86), the format codes (Table 30-3), and the
host's transactions: which register an offset reads and writes, what each host action does in one step. -/

namespace Sys2Proof

/-! ## Command words and format codes (30_encoding R82, R86, R90, R97) -/

/-- A number of 32 bits, read as a table row of 32 bits, is itself. -/
theorem tableWord_toNat (w : Word) : tableWord 32 w.toNat = some w := by
  have hmod : w.toNat % 2 ^ 32 = w.toNat := Nat.mod_eq_of_lt w.isLt
  simp only [tableWord, hmod, if_pos w.isLt, BitVec.ofNat_toNat, BitVec.setWidth_eq]

theorem decodeTableWord_encode (i : Instr) : decodeTableWord 32 (encode i).toNat = some i := by
  rw [decodeTableWord, tableWord_toNat]
  simp only [decode_encode]
  rfl

/-- Settles O2: a command's word decodes to it, and a word that decodes has its reserved bits clear. -/
theorem decodeEncodeAgree : Obligations.DecodeEncodeAgree :=
  ⟨fun i _ => ⟨decode_encode i, decodeTableWord_encode i⟩, fun _ _ => encode_of_decode⟩

/-- Settles O1: each row's word is the encoding of its command. -/
theorem tableWordsDecode : Obligations.TableWordsDecode :=
  ⟨decode_encode .numc, decode_encode .get, decode_encode .set, decode_encode .init, decode_encode .capb,
    decode_encode .xlate, decode_encode .pget, decode_encode .pset, decode_encode .palnum, decode_encode .palget,
    decode_encode .palfind, decode_encode .cvtRgbGs, decode_encode .cvtGsRgb, decode_encode .cvtGsRgba,
    decode_encode .cvtRgbaRgb, decode_encode .cvtRgbaGsa, decode_encode .cvtGsaRgba, decode_encode .cvtBwGs,
    decode_encode .cvtGsBw⟩

/-! ## The address space (20_memory R60) -/

theorem Config.memSize_le (c : Config) : c.memSize ≤ 2 ^ 32 :=
  Nat.pow_le_pow_right (by decide) (Nat.succ_le_of_lt c.addrBitsLessOne.isLt)

theorem Config.memSize_pos (c : Config) : 0 < c.memSize := by
  rw [Config.memSize]
  positivity

end Sys2Proof

namespace Sys2Proof.Machine

/-- Settles O5: the table's two columns, row by row and over the 256 codes. -/
theorem formatCodes : Obligations.FormatCodes := by
  refine ⟨rfl, ?bits⟩
  case bits => decide

theorem keepAddrBits_toNat (c : Config) (w : Word) : (keepAddrBits c w).toNat = w.toNat % c.memSize := by
  have hlt : w.toNat % c.memSize < 2 ^ 32 := (Nat.mod_lt _ c.memSize_pos).trans_le c.memSize_le
  rw [keepAddrBits, BitVec.toNat_ofNat, Nat.mod_eq_of_lt hlt]

/-! ## The register file (10_state R22 to R40) -/

/-- The number of values an `RW` register holds: 2 to the number of its implemented bits (10_state Table 10-1); none
for a register the host cannot write. -/
def Reg.size (c : Config) : Reg → Option Nat
  | .bufBase | .palBase => some c.memSize
  | .bufLen | .palLen => some (2 ^ 29)
  | .bufFmt | .palFmt => some (2 ^ 8)
  | .viewW | .viewH => some (2 ^ 16)
  | .arg0 | .arg1 | .colorIn => some (2 ^ 32)
  | .id | .ctrl | .cmd | .status | .finfo | .colorOut | .result => none

section
variable {s : State} {r r' : Reg} {off : BitVec 8} {w : Word} {rest : List HostAction} {n : Nat}

/-- A write to an `RW` register is read back with its implemented bits. -/
theorem State.readReg_writeReg_same (hn : r.size s.cfg = some n) :
    ((s.writeReg r w).readReg r).toNat = w.toNat % n := by
  cases r <;> cases hn <;> simp [State.readReg, keepAddrBits_toNat] <;> omega

/-- A register without implemented bits stores nothing. -/
theorem State.writeReg_of_size_none (h : r.size s.cfg = none) : s.writeReg r w = s := by
  cases r <;> first | rfl | cases h

/-- A register write leaves what every other register reads. -/
theorem State.readReg_writeReg_other (h : r' ≠ r) : (s.writeReg r w).readReg r' = s.readReg r' := by
  cases r' with
  | status => cases r <;> rfl
  | _ => cases r <;> first | rfl | exact absurd rfl h

@[simp] theorem regValue_offset (s : State) (r : Reg) : regValue s r.offset = s.readReg r := by
  simp [regValue]

theorem regValue_of_none (h : Reg.ofOffset off = none) : regValue s off = 0 := by
  simp [regValue, h]

theorem regValue_writeReg_other (h : off ≠ r.offset) : regValue (s.writeReg r w) off = regValue s off := by
  cases hr : Reg.ofOffset off with
  | none => rw [regValue_of_none hr, regValue_of_none hr]
  | some r' =>
    obtain rfl := Reg.eq_offset_of_ofOffset hr
    rw [regValue_offset, regValue_offset, State.readReg_writeReg_other fun he => h (congrArg Reg.offset he)]

/-- No register stands at `0x48` or above (10_state Table 10-1). -/
theorem Reg.offset_lt (r : Reg) : r.offset.toNat < 0x48 := by cases r <;> decide

theorem Reg.ofOffset_of_ge (h : 0x48 ≤ off.toNat) : Reg.ofOffset off = none := by
  cases hr : Reg.ofOffset off with
  | none => rfl
  | some r =>
    obtain rfl := Reg.eq_offset_of_ofOffset hr
    exact absurd r.offset_lt (Nat.not_lt.2 h)

/-! ## Register transactions in one step (30_encoding R80, R81) -/

theorem step_regWrite (hp : s.program = .regWrite off w :: rest) :
    step s = regWrite exec off w { s with program := rest } := step_cons hp

/-- A write to a register that is no trigger, on an engine that is not faulted. -/
theorem step_regWrite_reg (hf : s.fault = false) (hctrl : r ≠ .ctrl) (hcmd : r ≠ .cmd)
    (hp : s.program = .regWrite r.offset w :: rest) :
    step s = .next (State.writeReg { s with program := rest } r w) := by
  rw [step_regWrite hp]
  exact regWrite_reg w hf hctrl hcmd

theorem step_regWrite_cmd (hf : s.fault = false) (hp : s.program = .regWrite Reg.cmd.offset w :: rest) :
    step s = runCommand exec w { s with program := rest } := by
  rw [step_regWrite hp]
  exact regWrite_cmd w hf

theorem step_regWrite_reserved (ha : off.toNat % 4 = 0) (hr : Reg.ofOffset off = none)
    (hp : s.program = .regWrite off w :: rest) : step s = .next { s with program := rest } := by
  rw [step_regWrite hp]
  exact regWrite_reserved w _ ((offsetAligned_iff off).2 ha) hr

/-- A register without implemented bits ignores a write, on a faulted engine and on one that is not. -/
theorem step_regWrite_readOnly (hn : r.size s.cfg = none) (hctrl : r ≠ .ctrl) (hcmd : r ≠ .cmd)
    (hp : s.program = .regWrite r.offset w :: rest) : step s = .next { s with program := rest } := by
  obtain hf | hf := Bool.eq_false_or_eq_true s.fault
  · rw [step_regWrite hp]
    exact regWrite_faulted w hf hctrl
  · rw [step_regWrite_reg hf hctrl hcmd hp, State.writeReg_of_size_none (s := { s with program := rest }) hn]

theorem runCommand_of_decode {run : Instr → State → Host.Outcome State Fault Refusal} {i : Instr}
    (h : decode w = .ok i) : runCommand run w s = run i s := by
  simp [runCommand, h]

end

/-! ## The statements -/

/-- Settles O6: a write to `CMD` on an engine that is not faulted decodes the word; `withFetchWord` places one. -/
theorem stepRunsCommand : Obligations.StepRunsCommand := by
  refine ⟨?write, ?placed⟩
  case write =>
    intro s w rest i hf hp hd _
    rw [step_regWrite_cmd hf hp, runCommand_of_decode hd]
  case placed =>
    intro s w i hf hd
    have hplace : s.withFetchWord 32 w.toNat = withCommand s w := by simp [State.withFetchWord, tableWord_toNat]
    rw [hplace, step_regWrite_cmd (s := withCommand s w) hf rfl, runCommand_of_decode hd]
    rfl

/-- The offsets and sizes of the 11 `RW` registers are those of Table 10-1. -/
theorem exists_reg_of_mem_writable {c : Config} {off : BitVec 8} {n : Nat}
    (h : (off, n) ∈ [(0x14#8, 2 ^ c.addrBits), (0x18#8, 2 ^ 29), (0x1C#8, 2 ^ 8), (0x20#8, 2 ^ c.addrBits),
      (0x24#8, 2 ^ 29), (0x28#8, 2 ^ 8), (0x2C#8, 2 ^ 16), (0x30#8, 2 ^ 16), (0x34#8, 2 ^ 32), (0x38#8, 2 ^ 32),
      (0x3C#8, 2 ^ 32)]) :
    ∃ r : Reg, off = r.offset ∧ r.size c = some n ∧ r ≠ .ctrl ∧ r ≠ .cmd := by
  have row {r : Reg} {m : Nat} (hr : r.size c = some m) (he : (off, n) = (r.offset, m)) :
      ∃ r : Reg, off = r.offset ∧ r.size c = some n ∧ r ≠ .ctrl ∧ r ≠ .cmd := by
    cases he
    have hne {q : Reg} (hq : q.size c = none) : r ≠ q := fun hrq => by cases (hrq ▸ hr).symm.trans hq
    exact ⟨r, rfl, hr, hne rfl, hne rfl⟩
  simp only [List.mem_cons, List.not_mem_nil, or_false] at h
  obtain h | h | h | h | h | h | h | h | h | h | h := h
  · exact row (r := .bufBase) rfl h
  · exact row (r := .bufLen) rfl h
  · exact row (r := .bufFmt) rfl h
  · exact row (r := .palBase) rfl h
  · exact row (r := .palLen) rfl h
  · exact row (r := .palFmt) rfl h
  · exact row (r := .viewW) rfl h
  · exact row (r := .viewH) rfl h
  · exact row (r := .arg0) rfl h
  · exact row (r := .arg1) rfl h
  · exact row (r := .colorIn) rfl h

/-- Settles O10: the step is the register's write, which is read back with its implemented bits and touches no other
register. -/
theorem writableRegisters : Obligations.WritableRegisters := by
  intro s off w rest n hf hp hmem
  obtain ⟨r, rfl, hn, hctrl, hcmd⟩ := exists_reg_of_mem_writable hmem
  obtain ⟨hcfg, hmem, -, -, -, -, -, -, hprogram, hobserved⟩ :=
    State.writeReg_frame { s with program := rest } r w
  refine ⟨_, step_regWrite_reg hf hctrl hcmd hp, ?same, fun off' hoff => ?other, hcfg, hmem, hprogram, hobserved⟩
  case same => rw [regValue_offset, State.readReg_writeReg_same (s := { s with program := rest }) hn]
  case other =>
    rw [regValue_writeReg_other hoff]
    rfl

/-- Settles O11: the five read-only registers have no implemented bits, and no register stands at a reserved offset. -/
theorem ignoredWritesAndZeroReads : Obligations.IgnoredWritesAndZeroReads := by
  intro s off rest ha
  refine ⟨fun w hp hoff => ?write, fun hp hoff => ?read⟩
  case write =>
    have readOnly (r : Reg) (hn : r.size s.cfg = none) (hctrl : r ≠ .ctrl) (hcmd : r ≠ .cmd) (he : off = r.offset) :
        step s = .next { s with program := rest } := by
      subst he
      exact step_regWrite_readOnly hn hctrl hcmd hp
    simp only [List.mem_cons, List.not_mem_nil, or_false] at hoff
    obtain (h | h | h | h | h) | h := hoff
    · exact readOnly .id rfl nofun nofun h
    · exact readOnly .status rfl nofun nofun h
    · exact readOnly .finfo rfl nofun nofun h
    · exact readOnly .colorOut rfl nofun nofun h
    · exact readOnly .result rfl nofun nofun h
    · exact step_regWrite_reserved ha (Reg.ofOffset_of_ge h) hp
  case read =>
    have hzero : regValue s off = 0 := by
      obtain rfl | rfl | h := hoff
      · exact regValue_offset s .ctrl
      · exact regValue_offset s .cmd
      · exact regValue_of_none (Reg.ofOffset_of_ge h)
    rw [step_regRead ha hp, hzero]

/-- Settles O12: a read returns the register; `STATUS` is the number of Table 10-2. -/
theorem readOnlyRegisters : Obligations.ReadOnlyRegisters := by
  intro s off rest v hp hmem
  have row (r : Reg) {n : Nat} (hn : (s.readReg r).toNat = n) (he : (off, v) = (r.offset, n)) :
      step s = .next { s with program := rest, observed := s.observed ++ [.reg (BitVec.ofNat 32 v)] } := by
    cases he
    rw [step_regRead ((offsetAligned_iff _).1 r.offset_aligned) hp, regValue_offset, ← hn, BitVec.ofNat_toNat,
      BitVec.setWidth_eq]
  simp only [List.mem_cons, List.not_mem_nil, or_false] at hmem
  obtain h | h | h | h | h := hmem
  · exact row .id rfl h
  · exact row .status s.statusWord_toNat h
  · exact row .finfo rfl h
  · exact row .colorOut rfl h
  · exact row .result rfl h

/-- Settles O13: the alignment test comes first in a register transaction, and an empty list is no action. -/
theorem refusedAndIdle : Obligations.RefusedAndIdle := by
  refine ⟨fun s off w rest hoff hp => ?refused, fun s hp => ?idle⟩
  case refused =>
    have ha : offsetAligned off = false := Bool.eq_false_iff.2 fun h => hoff ((offsetAligned_iff off).1 h)
    obtain hp | hp := hp <;> rw [step_cons hp]
    · exact regWrite_unaligned w _ ha
    · simp [perform, regRead, ha]
  case idle => simp [step, hostStep, hp]

/-- Settles O14: a host access is one read or write of one byte, below the top of memory. -/
theorem hostMemoryAccess : Obligations.HostMemoryAccess := by
  intro s a rest
  refine ⟨fun v hp ha => ?write, fun hp ha => ?read, fun v hp ha => ?beyond⟩
  case write =>
    refine ⟨s.mem.write a.toNat v, ?_, fun b => Memory.read_write s.mem a.toNat b v⟩
    rw [step_cons hp]
    exact if_pos ha
  case read =>
    rw [step_cons hp]
    exact if_pos ha
  case beyond =>
    obtain hp | hp := hp <;> rw [step_cons hp]
    · exact if_neg (Nat.not_lt.2 ha)
    · exact if_neg (Nat.not_lt.2 ha)

/-- Settles O59: a reset clears the base registers and the fault record and leaves `MEM` as it is. -/
theorem resetHasInvariant : Obligations.ResetHasInvariant := by
  have powerUp (c : Config) (m : Memory) (hwf : m.wf = true) (hbelow : m.below c.memSize = true) :
      (State.powerUp c m).Inv :=
    ⟨hwf, hbelow, c.memSize_pos, c.memSize_pos, fun _ => ⟨rfl, rfl⟩, nofun⟩
  exact ⟨powerUp _ _ rfl rfl, powerUp⟩

end Sys2Proof.Machine
end

section
/-! PROOFS. 41_format_codecs: the footprint of an element (R179, Table 41-1). 43_buffer: the sizing rule (R213). -/

namespace Sys2Proof.Machine

/-! ## The footprint of an element (41_format_codecs R179, Table 41-1) -/

section
variable {c : Config} {f : Format} {fp : List (Nat × Byte)} {base i j a b k n w len : Nat} {mask : Byte}

/-- The footprint of element `i` of a format of `n` whole bytes. -/
def wholeBytes (n i : Nat) : List (Nat × Byte) := (List.range n).map fun k => (n * i + k, 0xFF#8)

theorem mem_wholeBytes : (k, mask) ∈ wholeBytes n i ↔ mask = 0xFF#8 ∧ n * i ≤ k ∧ k < n * i + n := by
  simp only [wholeBytes, List.mem_map, List.mem_range, Prod.mk.injEq]
  constructor
  · rintro ⟨d, hd, rfl, rfl⟩
    exact ⟨rfl, by omega, by omega⟩
  · rintro ⟨rfl, hle, hlt⟩
    exact ⟨k - n * i, by omega, by omega, rfl⟩

/-- The three kinds of footprint: one field of one byte, whole bytes, or the nibbles of `RGB444`. -/
theorem Format.footprint_shape (f : Format) :
    (∃ w, FieldWidth w ∧ f.bpp = w ∧ ∀ c i, f.footprint c i = fieldFootprint c i w) ∨
    (∃ n, 2 ≤ n ∧ n ≤ 4 ∧ f.bpp = 8 * n ∧ ∀ c i, f.footprint c i = wholeBytes n i) ∨
    f = .fixed .rgb444 := by
  have byte (c : Config) (i : Nat) : [(i, 0xFF#8)] = fieldFootprint c i 8 := by simp [fieldFootprint]
  cases f with
  | indexed x => exact .inl ⟨x.bits, x.fieldWidth, rfl, fun _ _ => rfl⟩
  | fixed f =>
    cases f with
    | bw1 | gs1 => exact .inl ⟨1, by decide, rfl, fun _ _ => rfl⟩
    | gs2 | gsa11 => exact .inl ⟨2, by decide, rfl, fun _ _ => rfl⟩
    | gs4 | gsa22 | gsa31 => exact .inl ⟨4, by decide, rfl, fun _ _ => rfl⟩
    | gs8 | gsa44 | gsa71 | rgb332 => exact .inl ⟨8, by decide, rfl, byte⟩
    | rgb565 | rgba4444 | rgba5551 => exact .inr (.inl ⟨2, by decide, by decide, rfl, fun _ _ => rfl⟩)
    | rgb888 => exact .inr (.inl ⟨3, by decide, by decide, rfl, fun _ _ => rfl⟩)
    | rgba8888 => exact .inr (.inl ⟨4, by decide, by decide, rfl, fun _ _ => rfl⟩)
    | rgb444 => exact .inr (.inr rfl)

/-- The mask of a field has exactly the field's bits. -/
theorem getLsbD_fieldMask {sh : Nat} (h : sh + w ≤ 8) (b : Nat) :
    (BitVec.ofNat 8 (2 ^ w - 1) <<< sh).getLsbD b = decide (sh ≤ b ∧ b < sh + w) := by
  rw [BitVec.getLsbD_shiftLeft, BitVec.getLsbD_ofNat, Nat.testBit_two_pow_sub_one, Bool.eq_iff_iff]
  simp only [Bool.and_eq_true, Bool.not_eq_true', decide_eq_true_iff, decide_eq_false_iff_not]
  omega

theorem getLsbD_highNibble : ∀ b, (0xF0#8).getLsbD b = decide (4 ≤ b ∧ b < 8) :=
  getLsbD_fieldMask (sh := 4) (w := 4) (by decide)

theorem getLsbD_lowNibble : ∀ b, (0x0F#8).getLsbD b = decide (0 ≤ b ∧ b < 4) :=
  getLsbD_fieldMask (sh := 0) (w := 4) (by decide)

theorem getLsbD_wholeByte : ∀ b, (0xFF#8).getLsbD b = decide (0 ≤ b ∧ b < 8) :=
  getLsbD_fieldMask (sh := 0) (w := 8) (by decide)

theorem ownsBitAt_nil : ¬ ownsBitAt [] base a b := by
  rintro ⟨k, mask, -, h, -⟩
  cases h

theorem ownsBitAt_cons :
    ownsBitAt ((k, mask) :: fp) base a b ↔ (a = base + k ∧ mask.getLsbD b = true) ∨ ownsBitAt fp base a b := by
  constructor
  · rintro ⟨k', mask', ha, hm, hb⟩
    obtain hm | hm := List.mem_cons.1 hm
    · cases hm
      exact .inl ⟨ha, hb⟩
    · exact .inr ⟨k', mask', ha, hm, hb⟩
  · rintro (⟨ha, hb⟩ | ⟨k', mask', ha, hm, hb⟩)
    · exact ⟨k, mask, ha, List.mem_cons_self, hb⟩
    · exact ⟨k', mask', ha, List.mem_cons_of_mem _ hm, hb⟩

theorem ownsBitAt_fieldFootprint (hw : FieldWidth w) :
    ownsBitAt (fieldFootprint c i w) base a b ↔
      a = base + i / (8 / w) ∧ pos c i w ≤ b ∧ b < pos c i w + w := by
  rw [fieldFootprint, ownsBitAt_cons, getLsbD_fieldMask (pos_add_le c i hw), decide_eq_true_iff,
    or_iff_left ownsBitAt_nil]

theorem ownsBitAt_wholeBytes :
    ownsBitAt (wholeBytes n i) base a b ↔ b < 8 ∧ base + n * i ≤ a ∧ a < base + n * i + n := by
  simp only [ownsBitAt, mem_wholeBytes]
  constructor
  · rintro ⟨k, mask, rfl, ⟨rfl, hle, hlt⟩, hb⟩
    exact ⟨(of_decide_eq_true ((getLsbD_wholeByte b).symm.trans hb)).2, by omega, by omega⟩
  · rintro ⟨hb, hle, hlt⟩
    exact ⟨a - base, 0xFF#8, by omega, ⟨rfl, by omega, by omega⟩, by simp [getLsbD_wholeByte, hb]⟩

/-- Element `i` of `RGB444` is nibbles `3 i` to `3 i + 2` of the window, the upper nibble of a byte first. -/
theorem ownsBitAt_rgb444 :
    ownsBitAt (footprint c .rgb444 i) base a b ↔
      b < 8 ∧ base ≤ a ∧ 3 * i ≤ 2 * (a - base) + (1 - b / 4) ∧ 2 * (a - base) + (1 - b / 4) < 3 * i + 3 := by
  simp only [footprint]
  split <;>
    simp only [ownsBitAt_cons, ownsBitAt_nil, getLsbD_highNibble, getLsbD_lowNibble, getLsbD_wholeByte,
      decide_eq_true_iff, or_false] <;>
    omega

/-- Different elements own no common bit (41_format_codecs R144). -/
theorem not_ownsBitAt_of_ne (hij : i ≠ j) (h : ownsBitAt (f.footprint c i) base a b) :
    ¬ ownsBitAt (f.footprint c j) base a b := by
  obtain ⟨w, hw, -, hfp⟩ | ⟨n, hn, hn', -, hfp⟩ | rfl := f.footprint_shape
  · rw [hfp, ownsBitAt_fieldFootprint hw] at h ⊢
    rintro ⟨ha, hb⟩
    have hd := pos_disjoint c hw (show i / (8 / w) = j / (8 / w) by omega) hij
    omega
  · rw [hfp, ownsBitAt_wholeBytes] at h ⊢
    interval_cases n <;> omega
  · rw [Format.footprint, ownsBitAt_rgb444] at h ⊢
    omega

/-- The number of bits a mask has. -/
def maskBits (mask : Byte) : Nat := ((List.range 8).filter fun b => mask.getLsbD b).length

theorem ownedBits_cons : ownedBits ((k, mask) :: fp) = maskBits mask + ownedBits fp := by
  simp [ownedBits, maskBits]

theorem ownedBits_nil : ownedBits [] = 0 := rfl

theorem maskBits_field (hw : FieldWidth w) {sh : Nat} (h : sh + w ≤ 8) :
    maskBits (BitVec.ofNat 8 (2 ^ w - 1) <<< sh) = w := by
  have hsh : sh ≤ 8 - w := by omega
  obtain rfl | rfl | rfl | rfl := hw <;> interval_cases sh <;> rfl

theorem ownedBits_footprint (c : Config) (f : Format) (i : Nat) : ownedBits (f.footprint c i) = f.bpp := by
  obtain ⟨w, hw, hbpp, hfp⟩ | ⟨n, hn, hn', hbpp, hfp⟩ | rfl := f.footprint_shape
  · rw [hfp, hbpp, fieldFootprint, ownedBits_cons, ownedBits_nil, maskBits_field hw (pos_add_le c i hw),
      Nat.add_zero]
  · have hbyte : maskBits 0xFF#8 = 8 := rfl
    rw [hfp, hbpp]
    interval_cases n <;> simp [wholeBytes, List.range_succ, ownedBits_cons, ownedBits_nil, hbyte]
  · have hbyte : maskBits 0xFF#8 = 8 := rfl
    have hhigh : maskBits 0xF0#8 = 4 := rfl
    have hlow : maskBits 0x0F#8 = 4 := rfl
    simp only [Format.footprint, footprint]
    split <;> simp [ownedBits_cons, ownedBits_nil, hbyte, hhigh, hlow, Format.bpp, FixedFormat.bpp]

/-- An element lies in the window exactly when its index is below the count (41_format_codecs R140). -/
theorem lt_count_iff (c : Config) (f : Format) (i len : Nat) :
    i < count len f.bpp ↔ ∀ e ∈ f.footprint c i, e.1 < len := by
  obtain ⟨w, hw, hbpp, hfp⟩ | ⟨n, hn, hn', hbpp, hfp⟩ | rfl := f.footprint_shape
  · have field : i < len * 8 / w ↔ i / (8 / w) < len := by
      obtain rfl | rfl | rfl | rfl := hw <;> omega
    rw [hfp, hbpp, count, field]
    simp [fieldFootprint]
  · have bytes : i < len * 8 / (8 * n) ↔ n * i + n ≤ len := by
      interval_cases n <;> omega
    rw [hfp, hbpp, count, bytes]
    constructor
    · rintro h ⟨k, mask⟩ he
      have := (mem_wholeBytes.1 he).2
      omega
    · intro h
      have := h (n * i + (n - 1), 0xFF#8) (mem_wholeBytes.2 ⟨rfl, by omega, by omega⟩)
      omega
  · have hbpp : (Format.fixed .rgb444).bpp = 12 := rfl
    simp only [count, hbpp, Format.footprint, footprint]
    split <;> simp <;> omega

theorem touches_fieldFootprint : touches (fieldFootprint c i w) base a ↔ a = base + i / (8 / w) := by
  simp [touches, fieldFootprint]

theorem touches_wholeBytes : touches (wholeBytes n i) base a ↔ base + n * i ≤ a ∧ a < base + n * i + n := by
  simp only [touches, mem_wholeBytes]
  constructor
  · rintro ⟨k, mask, rfl, -, hle, hlt⟩
    omega
  · rintro ⟨hle, hlt⟩
    exact ⟨a - base, 0xFF#8, by omega, rfl, by omega, by omega⟩

/-- Only elements of fewer than 8 bits and of `RGB444` share a byte. -/
theorem shares_byte (hij : i ≠ j) (hi : touches (f.footprint c i) base a) (hj : touches (f.footprint c j) base a) :
    f.bpp < 8 ∨ f = .fixed .rgb444 := by
  obtain ⟨w, hw, hbpp, hfp⟩ | ⟨n, hn, hn', -, hfp⟩ | h := f.footprint_shape
  · rw [hfp, touches_fieldFootprint] at hi hj
    obtain rfl | rfl | rfl | rfl := hw <;> omega
  · rw [hfp, touches_wholeBytes] at hi hj
    interval_cases n <;> omega
  · exact .inr h

/-- A byte that an element of the window touches lies in the window. -/
theorem lt_of_touches (hi : i < count len f.bpp) (h : touches (f.footprint c i) base a) :
    base ≤ a ∧ a < base + len := by
  obtain ⟨k, mask, rfl, hk⟩ := h
  have hlt := (lt_count_iff c f i len).1 hi _ hk
  exact ⟨by omega, Nat.add_lt_add_left hlt base⟩

/-- An element that owns a bit of a byte touches the byte. -/
theorem touches_of_ownsBitAt (h : ownsBitAt fp base a b) : touches fp base a := by
  obtain ⟨k, mask, ha, hm, -⟩ := h
  exact ⟨k, mask, ha, hm⟩

end

/-- Settles O31, by the three kinds of footprint. -/
theorem footprintsFit : Obligations.FootprintsFit := fun c f i =>
  ⟨ownedBits_footprint c f i, lt_count_iff c f i, fun _ _ _ hij => not_ownsBitAt_of_ne hij,
    fun _ _ hij => shares_byte hij⟩

/-- Settles O23: rounding up to whole bytes adds fewer than 8 bits, less than one element of 8 bits or more; an element
of fewer bits divides 8, so what is added makes an element unless it is nothing. -/
theorem capacityHolds : Obligations.CapacityHolds := by
  intro f n
  have hbpp : f.bpp = 12 ∨ f.bpp = 1 ∨ f.bpp = 2 ∨ f.bpp = 4 ∨ f.bpp = 8 ∨ f.bpp = 16 ∨ f.bpp = 24 ∨ f.bpp = 32 := by
    obtain ⟨w, hw, hbpp, -⟩ | ⟨k, hk, hk', hbpp, -⟩ | rfl := f.footprint_shape
    · omega
    · omega
    · exact .inl rfl
  simp only [count, capBytes]
  obtain h | h | h | h | h | h | h | h := hbpp <;> rw [h] <;> omega

end Sys2Proof.Machine
end

section
/-! PROOFS. 41_format_codecs: a decode reads the owned bits of an element and an encode writes them (R144); decode after
encode and encode after decode (R185). -/

namespace Sys2Proof.Machine

/-! ## Decode reads owned bits only (41_format_codecs R144) -/

/-- Two memories agree on the bits that a footprint owns. -/
def AgreeOn (fp : List (Nat × Byte)) (base : Nat) (m m' : Memory) : Prop :=
  ∀ a b, ownsBitAt fp base a b → (m.read a).getLsbD b = (m'.read a).getLsbD b

section
variable {c : Config} {fp : List (Nat × Byte)} {base i k w : Nat} {m m' : Memory}

theorem fieldGet_congr (hw : FieldWidth w) (h : AgreeOn (fieldFootprint c i w) base m m') :
    fieldGet c m base i w = fieldGet c m' base i w := by
  apply BitVec.eq_of_getLsbD_eq
  intro b hb
  have hbit := h _ (pos c i w + b) ((ownsBitAt_fieldFootprint hw).2 ⟨rfl, by omega, by omega⟩)
  rw [getLsbD_fieldGet, getLsbD_fieldGet, hbit]

/-- The part of a byte that its mask covers. -/
theorem extractLsb'_read_congr {mask : Byte} (h : AgreeOn fp base m m') (hk : (k, mask) ∈ fp) (lo len : Nat)
    (hmask : ∀ b < len, mask.getLsbD (lo + b) = true) :
    (m.read (base + k)).extractLsb' lo len = (m'.read (base + k)).extractLsb' lo len := by
  apply BitVec.eq_of_getLsbD_eq
  intro b hb
  rw [BitVec.getLsbD_extractLsb', BitVec.getLsbD_extractLsb', h _ _ ⟨k, mask, rfl, hk, hmask b hb⟩]

theorem read_congr (h : AgreeOn fp base m m') (hk : (k, 0xFF#8) ∈ fp) : m.read (base + k) = m'.read (base + k) := by
  simpa using extractLsb'_read_congr h hk 0 8 (by decide)

/-- Memories that agree on an element's owned bits decode it alike. -/
theorem decodeColor_congr {f : FixedFormat} (h : AgreeOn (footprint c f i) base m m') :
    decodeColor c f m base i = decodeColor c f m' base i := by
  cases f with
  | bw1 | gs1 => simp only [decodeColor, fieldGet_congr (w := 1) (by decide) h]
  | gs2 | gsa11 => simp only [decodeColor, fieldGet_congr (w := 2) (by decide) h]
  | gs4 | gsa22 | gsa31 => simp only [decodeColor, fieldGet_congr (w := 4) (by decide) h]
  | gs8 | gsa44 | gsa71 | rgb332 => simp only [decodeColor, read_congr h (k := i) (by simp [footprint])]
  | rgb565 | rgba4444 | rgba5551 =>
    simp only [decodeColor, read_congr h (k := 2 * i) (by simp [footprint]),
      read_congr h (k := 2 * i + 1) (by simp [footprint])]
  | rgb888 =>
    simp only [decodeColor, read_congr h (k := 3 * i) (by simp [footprint]),
      read_congr h (k := 3 * i + 1) (by simp [footprint]), read_congr h (k := 3 * i + 2) (by simp [footprint])]
  | rgba8888 =>
    simp only [decodeColor, read_congr h (k := 4 * i) (by simp [footprint]),
      read_congr h (k := 4 * i + 1) (by simp [footprint]), read_congr h (k := 4 * i + 2) (by simp [footprint]),
      read_congr h (k := 4 * i + 3) (by simp [footprint])]
  | rgb444 =>
    simp only [footprint] at h
    split at h
    · next he =>
      simp only [decodeColor, if_pos he, read_congr h (k := 3 * (i / 2)) (by simp),
        extractLsb'_read_congr h (k := 3 * (i / 2) + 1) (mask := 0xF0#8) (by simp) 4 4 (by decide)]
    · next he =>
      simp only [decodeColor, if_neg he, read_congr h (k := 3 * (i / 2) + 2) (by simp),
        extractLsb'_read_congr h (k := 3 * (i / 2) + 1) (mask := 0x0F#8) (by simp) 0 4 (by decide)]

end

/-! ## Bit fields side by side (00_scope R7) -/

section
variable {n m w lo len : Nat}

theorem getLsbD_join (hi : BitVec m) (lw : BitVec n) (hw : m + n ≤ w) (b : Nat) :
    (join hi lw : BitVec w).getLsbD b = if b < n then lw.getLsbD b else hi.getLsbD (b - n) := by
  rw [join, BitVec.getLsbD_or, BitVec.getLsbD_shiftLeft, BitVec.getLsbD_setWidth, BitVec.getLsbD_setWidth]
  by_cases hn : b < n
  · simp [hn, show b < w by omega]
  · rw [BitVec.getLsbD_of_ge lw b (by omega)]
    by_cases hb : b < w
    · simp [hn, hb, show b - n < w by omega]
    · simp [hn, hb, BitVec.getLsbD_of_ge hi (b - n) (by omega)]

theorem extractLsb'_join_upper (hi : BitVec m) (lw : BitVec n) (hw : m + n ≤ w) (hlo : n ≤ lo) :
    (join hi lw : BitVec w).extractLsb' lo len = hi.extractLsb' (lo - n) len := by
  apply BitVec.eq_of_getLsbD_eq
  intro b hb
  rw [BitVec.getLsbD_extractLsb', BitVec.getLsbD_extractLsb', getLsbD_join hi lw hw, if_neg (by omega),
    Nat.sub_add_comm hlo]

theorem extractLsb'_join_lower (hi : BitVec m) (lw : BitVec n) (hw : m + n ≤ w) (hlo : lo + len ≤ n) :
    (join hi lw : BitVec w).extractLsb' lo len = lw.extractLsb' lo len := by
  apply BitVec.eq_of_getLsbD_eq
  intro b hb
  rw [BitVec.getLsbD_extractLsb', BitVec.getLsbD_extractLsb', getLsbD_join hi lw hw, if_pos (by omega)]

/-- Adjacent parts joined again. -/
theorem join_extractLsb' {k l : Nat} (y : BitVec l) (hw : w = m + n) (hk : k = lo + n) :
    (join (y.extractLsb' k m) (y.extractLsb' lo n) : BitVec w) = y.extractLsb' lo w := by
  apply BitVec.eq_of_getLsbD_eq
  intro b hb
  rw [getLsbD_join _ _ hw.ge, BitVec.getLsbD_extractLsb', BitVec.getLsbD_extractLsb', BitVec.getLsbD_extractLsb',
    decide_eq_true hb, Bool.true_and]
  by_cases hn : b < n
  · simp [hn]
  · simp [hn, show b - n < m by omega, show k + (b - n) = lo + b by omega]

end

/-! ## Encode as writes of masked bytes (41_format_codecs R144) -/

/-- A byte whose bits under the mask are those of `v`. -/
def blend (old mask v : Byte) : Byte := (old &&& ~~~mask) ||| (v &&& mask)

/-- The memory with the bytes of a footprint written in order, each under its mask. -/
def Memory.storeMasked (m : Memory) (base : Nat) : List ((Nat × Byte) × Byte) → Memory
  | [] => m
  | ((k, mask), v) :: ws => (m.write (base + k) (blend (m.read (base + k)) mask v)).storeMasked base ws

section
variable {c : Config} {f : FixedFormat} {base i a b k w : Nat} {m m' : Memory} {mask : Byte}
  {ws : List ((Nat × Byte) × Byte)} {col : Color}

theorem getLsbD_blend (old mask v : Byte) (b : Nat) :
    (blend old mask v).getLsbD b = if mask.getLsbD b then v.getLsbD b else old.getLsbD b := by
  by_cases hb : b < 8
  · rw [blend, BitVec.getLsbD_or, BitVec.getLsbD_and, BitVec.getLsbD_and, BitVec.getLsbD_not, decide_eq_true hb]
    cases mask.getLsbD b <;> simp
  · simp [BitVec.getLsbD_of_ge _ _ (Nat.not_lt.1 hb)]

theorem blend_wholeByte (old v : Byte) : blend old 0xFF#8 v = v := by
  apply BitVec.eq_of_getLsbD_eq
  intro b hb
  rw [getLsbD_blend, getLsbD_wholeByte, decide_eq_true ⟨Nat.zero_le b, hb⟩, if_pos rfl]

theorem replaceField_eq_blend (old : Byte) {sh : Nat} (h : sh + w ≤ 8) (x : BitVec w) :
    replaceField old sh w x = blend old (BitVec.ofNat 8 (2 ^ w - 1) <<< sh) (x.setWidth 8 <<< sh) := by
  apply BitVec.eq_of_getLsbD_eq
  intro b hb
  rw [getLsbD_replaceField old h x hb, getLsbD_blend, getLsbD_fieldMask h]
  by_cases hin : sh ≤ b ∧ b < sh + w
  · simp [hin, hb, Nat.not_lt.2 hin.1]
  · simp [hin]

/-- The upper nibble replaced, as the first element of an `RGB444` pair does in the byte it shares. -/
theorem join_lowNibble_eq_blend (old : Byte) (x : BitVec 4) :
    (join x (old.extractLsb' 0 4) : Byte) = blend old 0xF0#8 (x.setWidth 8 <<< 4) := by
  apply BitVec.eq_of_getLsbD_eq
  intro b hb
  rw [getLsbD_blend, getLsbD_highNibble, getLsbD_join _ _ (by decide), BitVec.getLsbD_extractLsb',
    BitVec.getLsbD_shiftLeft, BitVec.getLsbD_setWidth]
  by_cases h : b < 4
  · simp [h, Nat.not_le.2 h]
  · simp [h, hb, Nat.not_lt.1 h, show b - 4 < 8 by omega]

/-- The lower nibble replaced, as the second element of the pair does. -/
theorem join_highNibble_eq_blend (old : Byte) (x : BitVec 4) :
    (join (old.extractLsb' 4 4) x : Byte) = blend old 0x0F#8 (x.setWidth 8) := by
  apply BitVec.eq_of_getLsbD_eq
  intro b hb
  rw [getLsbD_blend, getLsbD_lowNibble, getLsbD_join _ _ (by decide), BitVec.getLsbD_extractLsb',
    BitVec.getLsbD_setWidth]
  by_cases h : b < 4
  · simp [h, hb]
  · simp [h, show b - 4 < 4 by omega, show 4 + (b - 4) = b by omega]

/-- One masked byte changes the bits under its mask to its own, and no other bit of memory. -/
theorem getLsbD_read_write_blend (m : Memory) (mask v : Byte) :
    ((m.write (base + k) (blend (m.read (base + k)) mask v)).read a).getLsbD b =
      if a = base + k ∧ mask.getLsbD b = true then v.getLsbD b else (m.read a).getLsbD b := by
  rw [Memory.read_write]
  by_cases ha : a = base + k
  · simp [ha, getLsbD_blend]
  · simp [ha]

theorem getLsbD_storeMasked_of_not_owned (h : ¬ ownsBitAt (ws.map Prod.fst) base a b) :
    ((m.storeMasked base ws).read a).getLsbD b = (m.read a).getLsbD b := by
  induction ws generalizing m with
  | nil => rfl
  | cons e ws ih =>
    obtain ⟨⟨k, mask⟩, v⟩ := e
    rw [List.map_cons, ownsBitAt_cons, not_or] at h
    rw [Memory.storeMasked, ih h.2, getLsbD_read_write_blend, if_neg h.1]

/-- A bit after masked writes is theirs where the masks own it, and the old one elsewhere. -/
theorem getLsbD_storeMasked_congr
    (h : ownsBitAt (ws.map Prod.fst) base a b ∨ (m.read a).getLsbD b = (m'.read a).getLsbD b) :
    ((m.storeMasked base ws).read a).getLsbD b = ((m'.storeMasked base ws).read a).getLsbD b := by
  induction ws generalizing m m' with
  | nil => exact h.resolve_left ownsBitAt_nil
  | cons e ws ih =>
    obtain ⟨⟨k, mask⟩, v⟩ := e
    apply ih
    rw [getLsbD_read_write_blend, getLsbD_read_write_blend]
    rw [List.map_cons, ownsBitAt_cons] at h
    by_cases hk : a = base + k ∧ mask.getLsbD b = true
    · exact .inr (by rw [if_pos hk, if_pos hk])
    · rw [if_neg hk, if_neg hk]
      exact h.imp_left fun h => h.resolve_left hk

theorem fieldSet_eq_storeMasked (hw : FieldWidth w) (x : BitVec w) (m : Memory) (base : Nat) :
    fieldSet c m base i w x =
      m.storeMasked base
        [((i / (8 / w), BitVec.ofNat 8 (2 ^ w - 1) <<< pos c i w), x.setWidth 8 <<< pos c i w)] := by
  rw [fieldSet_eq c m base i hw, replaceField_eq_blend _ (pos_add_le c i hw)]
  rfl

/-- The masked bytes an encode writes: the element's footprint, with values that do not depend on memory. -/
theorem encodeColor_eq_storeMasked (c : Config) (i : Nat) (h : col.type = f.ctype) :
    ∃ ws, ws.map Prod.fst = footprint c f i ∧
      ∀ m base, encodeColor c f m base i col = m.storeMasked base ws := by
  have field {w : Nat} (hw : FieldWidth w) (x : BitVec w) (hfp : fieldFootprint c i w = footprint c f i)
      (he : ∀ m base, encodeColor c f m base i col = fieldSet c m base i w x) :
      ∃ ws, ws.map Prod.fst = footprint c f i ∧
        ∀ m base, encodeColor c f m base i col = m.storeMasked base ws :=
    ⟨[((i / (8 / w), _), _)], hfp, fun m base => (he m base).trans (fieldSet_eq_storeMasked hw x m base)⟩
  have bytes (es : List (Nat × Byte)) (hfp : footprint c f i = es.map fun e => (e.1, 0xFF#8))
      (he : ∀ m base, encodeColor c f m base i col = es.foldl (fun m e => m.write (base + e.1) e.2) m) :
      ∃ ws, ws.map Prod.fst = footprint c f i ∧
        ∀ m base, encodeColor c f m base i col = m.storeMasked base ws := by
    refine ⟨es.map fun e => ((e.1, 0xFF#8), e.2), by rw [hfp, List.map_map]; rfl, fun m base => ?_⟩
    rw [he]
    clear he hfp
    induction es generalizing m with
    | nil => rfl
    | cons e es ih => rw [List.foldl_cons, List.map_cons, Memory.storeMasked, blend_wholeByte, ih]
  cases f <;> cases col <;> cases h
  case bw1.bw.refl bit => exact field (by decide) _ rfl fun _ _ => rfl
  case gs1.gs.refl v => exact field (by decide) _ rfl fun _ _ => rfl
  case gs2.gs.refl v => exact field (by decide) _ rfl fun _ _ => rfl
  case gs4.gs.refl v => exact field (by decide) _ rfl fun _ _ => rfl
  case gsa11.gsa.refl v a => exact field (by decide) _ rfl fun _ _ => rfl
  case gsa22.gsa.refl v a => exact field (by decide) _ rfl fun _ _ => rfl
  case gsa31.gsa.refl v a => exact field (by decide) _ rfl fun _ _ => rfl
  case gs8.gs.refl v => exact bytes [(i, _)] rfl fun _ _ => rfl
  case gsa44.gsa.refl v a => exact bytes [(i, _)] rfl fun _ _ => rfl
  case gsa71.gsa.refl v a => exact bytes [(i, _)] rfl fun _ _ => rfl
  case rgb332.rgb.refl r g b => exact bytes [(i, _)] rfl fun _ _ => rfl
  case rgb565.rgb.refl r g b => exact bytes [(2 * i, _), (2 * i + 1, _)] rfl fun _ _ => rfl
  case rgba4444.rgba.refl r g b a => exact bytes [(2 * i, _), (2 * i + 1, _)] rfl fun _ _ => rfl
  case rgba5551.rgba.refl r g b a => exact bytes [(2 * i, _), (2 * i + 1, _)] rfl fun _ _ => rfl
  case rgb888.rgb.refl r g b => exact bytes [(3 * i, _), (3 * i + 1, _), (3 * i + 2, _)] rfl fun _ _ => rfl
  case rgba8888.rgba.refl r g b a =>
    exact bytes [(4 * i, _), (4 * i + 1, _), (4 * i + 2, _), (4 * i + 3, _)] rfl fun _ _ => rfl
  case rgb444.rgb.refl r g b =>
    by_cases he : i % 2 = 0
    · refine ⟨[((3 * (i / 2), 0xFF#8), join (compact c.pack1 4 r) (compact c.pack1 4 g)),
        ((3 * (i / 2) + 1, 0xF0#8), (compact c.pack1 4 b).setWidth 8 <<< 4)], ?_, fun m base => ?_⟩
      · simp [footprint, he]
      · simp only [encodeColor, if_pos he, join_lowNibble_eq_blend, Memory.storeMasked, blend_wholeByte]
    · refine ⟨[((3 * (i / 2) + 1, 0x0F#8), (compact c.pack1 4 r).setWidth 8),
        ((3 * (i / 2) + 2, 0xFF#8), join (compact c.pack1 4 g) (compact c.pack1 4 b))], ?_, fun m base => ?_⟩
      · simp [footprint, he]
      · simp only [encodeColor, if_neg he, join_highNibble_eq_blend, Memory.storeMasked, blend_wholeByte]

/-- An encode leaves every bit the element does not own. -/
theorem getLsbD_encodeColor_of_not_owned (h : col.type = f.ctype) (hn : ¬ ownsBitAt (footprint c f i) base a b) :
    ((encodeColor c f m base i col).read a).getLsbD b = (m.read a).getLsbD b := by
  obtain ⟨ws, hws, he⟩ := encodeColor_eq_storeMasked c i h
  rw [he]
  exact getLsbD_storeMasked_of_not_owned (hws ▸ hn)

/-- A bit after an encode is the colour's where the element owns it, and the old one elsewhere. -/
theorem getLsbD_encodeColor_congr (h : col.type = f.ctype)
    (hb : ownsBitAt (footprint c f i) base a b ∨ (m.read a).getLsbD b = (m'.read a).getLsbD b) :
    ((encodeColor c f m base i col).read a).getLsbD b = ((encodeColor c f m' base i col).read a).getLsbD b := by
  obtain ⟨ws, hws, he⟩ := encodeColor_eq_storeMasked c i h
  rw [he, he]
  exact getLsbD_storeMasked_congr (hws ▸ hb)

end

/-- Settles O32, from the masked bytes an encode writes. -/
theorem ownedBitsOnly : Obligations.OwnedBitsOnly := fun _ _ _ _ _ _ _ hcol =>
  ⟨decodeColor_congr, fun _ _ => getLsbD_encodeColor_of_not_owned hcol,
    fun _ _ hb => getLsbD_encodeColor_congr hcol (.inl hb)⟩

/-! ## Decode after encode (41_format_codecs R185 (a), (b)) -/

theorem decodeColor_encodeColor_bw1 (c : Config) (m : Memory) (base i : Nat) (bit : Bool) :
    decodeColor c .bw1 (encodeColor c .bw1 m base i (.bw bit)) base i = .bw bit := by
  simp only [decodeColor, encodeColor, fieldGet_fieldSet_same c m base i (w := 1) (by decide)]
  cases bit <;> rfl

@[simp] theorem compact_eight (p : Pack1Rule) (v : Byte) : compact p 8 v = v := by
  simp [compact]

section
variable {c : Config} {f : FixedFormat} {m : Memory} {base i : Nat} {col : Color}

/-- What was encoded decodes with every channel compacted and expanded again: the parts of a field or a byte are taken
apart where they were joined. -/
theorem channels_decodeColor_encodeColor (h : col.type = f.ctype) :
    (decodeColor c f (encodeColor c f m base i col) base i).channels =
      requantize c.pack1 f.widths col.channels := by
  have field1 := fieldGet_fieldSet_same c m base i (w := 1) (by decide)
  have field2 := fieldGet_fieldSet_same c m base i (w := 2) (by decide)
  have field4 := fieldGet_fieldSet_same c m base i (w := 4) (by decide)
  cases f with
  | bw1 | gs1 | gs2 | gs4 | gsa11 | gsa22 | gsa31 =>
    cases col <;> cases h
    simp [decodeColor, encodeColor, field1, field2, field4, Color.channels, requantize, FixedFormat.widths,
      extractLsb'_join_upper, extractLsb'_join_lower]
  | gs8 | gsa44 | gsa71 | rgb332 | rgb565 | rgb888 | rgba4444 | rgba5551 | rgba8888 =>
    cases col <;> cases h
    simp [decodeColor, encodeColor, Memory.read_write, Color.channels, requantize, FixedFormat.widths,
      extractLsb'_join_upper, extractLsb'_join_lower, join_extractLsb']
  | rgb444 =>
    cases col <;> cases h
    by_cases he : i % 2 = 0 <;>
      simp [decodeColor, encodeColor, he, Memory.read_write, Color.channels, requantize, FixedFormat.widths,
        extractLsb'_join_upper, extractLsb'_join_lower]

theorem FixedFormat.widths_range (f : FixedFormat) : ∀ n ∈ f.widths, 1 ≤ n ∧ n ≤ 8 := by cases f <;> decide

/-- Channels in the image of `expand` come back unchanged (40_color_conversions R114). -/
theorem requantize_of_image (p : Pack1Rule) {ns : List Nat} {chs : List Byte} (hns : ∀ n ∈ ns, 1 ≤ n ∧ n ≤ 8)
    (h : List.Forall₂ (fun n v => ∃ x : BitVec n, expand x = v) ns chs) : requantize p ns chs = chs := by
  induction h with
  | nil => rfl
  | cons hv _ ih =>
    obtain ⟨hn, hns⟩ := List.forall_mem_cons.1 hns
    obtain ⟨x, rfl⟩ := hv
    rw [requantize, List.zipWith_cons_cons, compact_expand p hn.1 hn.2]
    exact congrArg _ (ih hns)

/-- Two colours of one type with the same channels are equal, but for the one bit that is no channel. -/
theorem Color.eq_of_channels {x y : Color} (hxy : x.type = y.type) (hbw : x.type ≠ .bw)
    (h : x.channels = y.channels) : x = y := by
  cases x <;> cases y <;> cases hxy <;> simp_all [Color.channels, Color.type]

/-- A colour that the format can express reads back exactly. -/
theorem decodeColor_encodeColor_of_expressible (h : Expressible f col) :
    decodeColor c f (encodeColor c f m base i col) base i = col := by
  obtain ⟨htype, himage⟩ := h
  by_cases hbw : f.ctype = .bw
  · cases f <;> cases hbw
    cases col <;> cases htype
    exact decodeColor_encodeColor_bw1 ..
  · apply Color.eq_of_channels
    · rw [type_decodeColor, htype]
    · rwa [type_decodeColor]
    · rw [channels_decodeColor_encodeColor htype, requantize_of_image _ f.widths_range himage]

end

/-! ## Encode after decode (41_format_codecs R185 (c)) -/

section
variable {c : Config} {m m' : Memory} {base i k w : Nat}

/-- Writing a byte that reads the same leaves every byte as it was. -/
theorem read_write_self {v : Byte} (h : ∀ a, m'.read a = m.read a) (hv : v = m.read k) (a : Nat) :
    (m'.write k v).read a = m.read a := by
  rw [Memory.read_write, hv, h]
  split
  · next ha => rw [ha]
  · rfl

theorem read_fieldSet_self (hw : FieldWidth w) {x : BitVec w} (hx : x = fieldGet c m base i w) (a : Nat) :
    (fieldSet c m base i w x).read a = m.read a := by
  rw [fieldSet_eq c m base i hw]
  refine read_write_self (fun _ => rfl) ?_ a
  apply BitVec.eq_of_getLsbD_eq
  intro b hb
  rw [getLsbD_replaceField _ (pos_add_le c i hw) x hb, hx, getLsbD_fieldGet]
  split
  · next h => simp [show b - pos c i w < w by omega, Nat.add_sub_cancel' h.1]
  · rfl

theorem ofBool_getLsbD_zero (v : BitVec 1) : BitVec.ofBool (v.getLsbD 0) = v := by
  obtain rfl | rfl := BitVec.eq_zero_or_eq_one v <;> rfl

end

/-- Settles O33: each channel compacts to the bits it was expanded from, and the bits joined again are the field or the
byte that was read. -/
theorem encodeDecodedIsIdentity : Obligations.EncodeDecodedIsIdentity := by
  intro c f m base i a
  have self (a : Nat) : m.read a = m.read a := rfl
  cases f with
  | bw1 => exact read_fieldSet_self (w := 1) (by decide) (ofBool_getLsbD_zero _) a
  | gs1 => exact read_fieldSet_self (w := 1) (by decide) (compact_expand _ (by decide) (by decide) _) a
  | gs2 => exact read_fieldSet_self (w := 2) (by decide) (compact_expand _ (by decide) (by decide) _) a
  | gs4 => exact read_fieldSet_self (w := 4) (by decide) (compact_expand _ (by decide) (by decide) _) a
  | gsa11 =>
    refine read_fieldSet_self (w := 2) (by decide) ?_ a
    simp (disch := decide) only [compact_expand, join_extractLsb', BitVec.extractLsb'_eq_self]
  | gsa22 | gsa31 =>
    refine read_fieldSet_self (w := 4) (by decide) ?_ a
    simp (disch := decide) only [compact_expand, join_extractLsb', BitVec.extractLsb'_eq_self]
  | gs8 => exact read_write_self self rfl a
  | gsa44 | gsa71 | rgb332 =>
    refine read_write_self self ?_ a
    simp (disch := decide) only [compact_expand, join_extractLsb', BitVec.extractLsb'_eq_self]
  | rgb888 => exact read_write_self (read_write_self (read_write_self self rfl) rfl) rfl a
  | rgba8888 => exact read_write_self (read_write_self (read_write_self (read_write_self self rfl) rfl) rfl) rfl a
  | rgb565 | rgba4444 | rgba5551 =>
    refine read_write_self (read_write_self self ?_) ?_ a <;>
      simp (disch := decide) only [compact_expand, extractLsb'_join_upper, extractLsb'_join_lower, Nat.sub_self,
        join_extractLsb', BitVec.extractLsb'_eq_self]
  | rgb444 =>
    by_cases he : i % 2 = 0
    · simp (disch := decide) only [decodeColor, encodeColor, if_pos he, compact_expand, join_extractLsb',
        BitVec.extractLsb'_eq_self]
      have hfirst := read_write_self (k := base + 3 * (i / 2)) self rfl
      refine read_write_self hfirst ?_ a
      simp (disch := decide) only [hfirst, join_extractLsb', BitVec.extractLsb'_eq_self]
    · simp (disch := decide) only [decodeColor, encodeColor, if_neg he, compact_expand, join_extractLsb',
        BitVec.extractLsb'_eq_self]
      exact read_write_self (read_write_self self rfl) rfl a

end Sys2Proof.Machine
end

section
/-! PROOFS. 41_format_codecs, 42_indexed_codec and 44_pixel_view: what `GET`, `PGET`, `SET` and `PSET` do to one element
of a buffer that opens (R183, R184, R193, R194, R223, R224), and how they answer one another (R144, R185). -/

namespace Sys2Proof.Machine

/-! ## Elements and their neighbours (41_format_codecs R144) -/

/-- Two memories hold the same bytes in the window of `len` bytes at `base`. -/
def SameBytes (base len : Nat) (m m' : Memory) : Prop := ∀ a, base ≤ a → a < base + len → m.read a = m'.read a

section
variable {c : Config} {f : FixedFormat} {m m' : Memory} {base i j k len w bits : Nat} {col : Color}

theorem decodeColor_encodeColor_other (hcol : col.type = f.ctype) (hij : i ≠ j) :
    decodeColor c f (encodeColor c f m base i col) base j = decodeColor c f m base j :=
  decodeColor_congr fun _ _ hb =>
    getLsbD_encodeColor_of_not_owned hcol (not_ownsBitAt_of_ne (f := .fixed f) hij.symm hb)

/-- The colour of an element of a window depends on the window's bytes alone. -/
theorem decodeColor_of_sameBytes (h : SameBytes base len m m') (hi : i < count len f.bpp) :
    decodeColor c f m base i = decodeColor c f m' base i :=
  decodeColor_congr fun a b hb => by
    obtain ⟨hle, hlt⟩ := lt_of_touches (f := .fixed f) hi (touches_of_ownsBitAt hb)
    rw [h a hle hlt]

theorem fieldGet_of_sameBytes (x : IndexedFormat) (h : SameBytes base len m m') (hi : i < count len x.bits) :
    fieldGet c m base i x.bits = fieldGet c m' base i x.bits :=
  fieldGet_congr x.fieldWidth fun a b hb => by
    obtain ⟨hle, hlt⟩ := lt_of_touches (f := .indexed x) hi (touches_of_ownsBitAt hb)
    rw [h a hle hlt]

theorem palScan_of_sameBytes (h : SameBytes base len m m') {n : Nat} (hn : k + n ≤ count len f.bpp) :
    palScan c f m base col k n = palScan c f m' base col k n := by
  induction n generalizing k with
  | zero => rfl
  | succ n ih => rw [palScan, palScan, decodeColor_of_sameBytes h (by omega), ih (by omega)]

/-- The reverse search depends on the bytes of the palette window alone. -/
theorem palFind_of_sameBytes (h : SameBytes base len m m') :
    palFind c f m base (count len f.bpp) bits col = palFind c f m' base (count len f.bpp) bits col :=
  palScan_of_sameBytes h (by omega)

/-- The byte of an element's field lies in the window. -/
theorem fieldByte_lt (x : IndexedFormat) (hi : i < count len x.bits) : i / (8 / x.bits) < len :=
  (lt_count_iff Config.standard (.indexed x) i len).1 hi _ (List.mem_singleton.2 rfl)

/-- A field written in the window leaves every byte outside it. -/
theorem read_fieldSet_of_outside (x : IndexedFormat) (v : BitVec x.bits) (hi : i < count len x.bits) {a : Nat}
    (ha : a < base ∨ base + len ≤ a) : (fieldSet c m base i x.bits v).read a = m.read a := by
  apply read_fieldSet_other c m base i x.fieldWidth
  have hbyte := fieldByte_lt x hi
  generalize i / (8 / x.bits) = k at *
  omega

/-- A colour's word read back in the colour's type (30_encoding R93). -/
theorem Color.fromWord_toWord_of_type {t : ColorType} (h : col.type = t) : Color.fromWord t col.toWord = col := by
  rw [← h, Color.fromWord_toWord]

theorem fieldGet_fieldSet_toNat (x : IndexedFormat) (hk : k < 2 ^ x.bits) :
    (fieldGet c (fieldSet c m base i x.bits (BitVec.ofNat x.bits k)) base i x.bits).toNat = k := by
  rw [fieldGet_fieldSet_same c m base i x.fieldWidth, BitVec.toNat_ofNat, Nat.mod_eq_of_lt hk]

end

/-! ## Commands on one element of an open buffer (41_format_codecs R183, R184; 44_pixel_view R223, R224) -/

/-- How a command that reads element `i` ends. -/
abbrev State.answerElement (s : State) (b : BufferCodec) (i : Nat) : Host.Outcome State Fault Refusal :=
  s.finish (getColor s b i >>= fun col => .ok (s.putColorOut col.toWord))

/-- How a command that writes `COLOR_IN` to element `i` ends. -/
abbrev State.storeElement (s : State) (b : BufferCodec) (i : Nat) : Host.Outcome State Fault Refusal :=
  s.finish (setColor s b i (colorOperand s b.ctype) >>= fun r => .ok (s.putMemory r.1 (noMatchOf r.2)))

section
variable {s t : State} {b : BufferCodec} {f pf : FixedFormat} {x : IndexedFormat} {i j k : Nat}

theorem openBuffer_of_opensFixed (h : s.OpensFixed f) : openBuffer s = .ok (.fixed f) := openBuffer_fixed h.1 h.2

theorem openBuffer_of_opensIndexed (h : s.OpensIndexed x pf) : openBuffer s = .ok (.indexed x pf) :=
  openBuffer_indexed h.1 h.2.2.1 h.2.1 h.2.2.2

theorem exec_get_eq (ho : openBuffer s = .ok b) : exec .get s = s.answerElement b s.arg0.toNat := by
  simp only [exec, execGet, ho, except_bind_ok]
  rfl

theorem exec_pget_eq (ho : openBuffer s = .ok b) (hp : s.PointFits) :
    exec .pget s = s.answerElement b s.pointIndex := by
  simp only [exec, execPget, ho, checkPoint_of_fits hp, except_bind_ok]
  rfl

theorem exec_set_eq (ho : openBuffer s = .ok b) : exec .set s = s.storeElement b s.arg0.toNat := by
  simp only [exec, execSet, ho, except_bind_ok]
  rfl

theorem exec_pset_eq (ho : openBuffer s = .ok b) (hp : s.PointFits) :
    exec .pset s = s.storeElement b s.pointIndex := by
  simp only [exec, execPset, ho, checkPoint_of_fits hp, except_bind_ok]
  rfl

theorem answerElement_fixed (hi : i < s.elements f.bpp) :
    s.answerElement (.fixed f) i =
      .next (s.putColorOut (decodeColor s.cfg f s.mem s.bufBase.toNat i).toWord) := by
  rw [State.answerElement, getColor_fixed_of_lt hi]
  rfl

/-- The palette entry that the element's field names, or the fault of its missing slot. -/
theorem answerElement_indexed (hi : i < s.elements x.bits) :
    let k := (fieldGet s.cfg s.mem s.bufBase.toNat i x.bits).toNat
    (k < s.entries pf.bpp → s.answerElement (.indexed x pf) i = .next (s.putColorOut (s.entry pf k).toWord)) ∧
    (s.entries pf.bpp ≤ k → s.answerElement (.indexed x pf) i = .next (s.raise (.palOob k))) := by
  intro k
  rw [State.answerElement, getColor_indexed_of_lt hi]
  exact ⟨fun hk => by rw [palGet_of_lt hk]; rfl, fun hk => by rw [palGet_of_ge hk]; rfl⟩

theorem setColor_of_lt {col : Color} (hi : i < bufferCount s b) :
    setColor s b i col = .ok (storeColor s b s.mem i col) := by
  simp [setColor, Nat.not_le.2 hi]

theorem storeElement_of_lt (hi : i < bufferCount s b) :
    s.storeElement b i =
      .next (s.putMemory (storeColor s b s.mem i (colorOperand s b.ctype)).1
        (noMatchOf (storeColor s b s.mem i (colorOperand s b.ctype)).2)) := by
  rw [State.storeElement, setColor_of_lt hi]
  rfl

/-- A write of one element leaves memory as it was, or as its element write leaves it. -/
theorem mem_of_storeElement (h : s.storeElement b i = .next t) :
    t.mem = s.mem ∨ t.mem = (storeColor s b s.mem i (colorOperand s b.ctype)).1 := by
  obtain ⟨-, hc⟩ | ⟨-, hc⟩ := setColor_cases s b i (colorOperand s b.ctype) <;>
    rw [State.storeElement, hc] at h <;> cases h
  · exact .inr rfl
  · exact .inl rfl

theorem storeColor_of_lowestSlot {m : Memory} {col : Color}
    (h : palFind s.cfg pf m s.palBase.toNat (paletteCount s pf) x.bits col = some k) :
    storeColor s (.indexed x pf) m i col =
      (fieldSet s.cfg m s.bufBase.toNat i x.bits (BitVec.ofNat x.bits k), true) := by
  simp [storeColor, h]

theorem storeColor_of_noSlot {m : Memory} {col : Color}
    (h : palFind s.cfg pf m s.palBase.toNat (paletteCount s pf) x.bits col = none) :
    storeColor s (.indexed x pf) m i col = (m, false) := by
  simp [storeColor, h]

theorem storeElement_fixed (hi : i < s.elements f.bpp) :
    s.storeElement (.fixed f) i =
      .next (s.putMemory (encodeColor s.cfg f s.mem s.bufBase.toNat i (colorOperand s f.ctype)) false) :=
  storeElement_of_lt hi

theorem storeElement_of_lowestSlot (hi : i < s.elements x.bits)
    (hk : s.LowestSlot x pf (colorOperand s pf.ctype) k) :
    s.storeElement (.indexed x pf) i =
      .next (s.putMemory (fieldSet s.cfg s.mem s.bufBase.toNat i x.bits (BitVec.ofNat x.bits k)) false) := by
  rw [storeElement_of_lt hi, BufferCodec.ctype, storeColor_of_lowestSlot (findSlot_eq_some_iff.2 hk)]
  rfl

theorem storeElement_of_noSlot (hi : i < s.elements x.bits)
    (hk : s.NoSlot x pf (colorOperand s pf.ctype)) :
    s.storeElement (.indexed x pf) i = .next (s.putMemory s.mem true) := by
  rw [storeElement_of_lt hi, BufferCodec.ctype, storeColor_of_noSlot (findSlot_eq_none_iff.2 hk)]
  rfl

/-- What a command that writes element `i` of an indexed buffer does: the lowest slot in the element's field, every
byte but that one as before; or the dropped write. -/
theorem storeElement_indexed (hi : i < s.elements x.bits) :
    (∀ k, s.LowestSlot x pf (colorOperand s pf.ctype) k →
      let m := fieldSet s.cfg s.mem s.bufBase.toNat i x.bits (BitVec.ofNat x.bits k)
      s.storeElement (.indexed x pf) i = .next (s.putMemory m false) ∧
      (fieldGet s.cfg m s.bufBase.toNat i x.bits).toNat = k ∧
      ∀ a, a ≠ s.bufBase.toNat + i / (8 / x.bits) → m.read a = s.mem.read a) ∧
    (s.NoSlot x pf (colorOperand s pf.ctype) →
      s.storeElement (.indexed x pf) i = .next (s.putMemory s.mem true)) :=
  ⟨fun _ hk => ⟨storeElement_of_lowestSlot hi hk, fieldGet_fieldSet_toNat x (lt_of_lowestSlot hk),
    fun _ ha => read_fieldSet_other _ _ _ _ x.fieldWidth _ ha⟩, storeElement_of_noSlot hi⟩

/-- An element write leaves the field of every other element. -/
theorem fieldGet_storeColor_other {m : Memory} {col : Color} (hij : i ≠ j) :
    fieldGet s.cfg (storeColor s (.indexed x pf) m i col).1 s.bufBase.toNat j x.bits =
      fieldGet s.cfg m s.bufBase.toNat j x.bits := by
  cases hk : palFind s.cfg pf m s.palBase.toNat (paletteCount s pf) x.bits col with
  | none => rw [storeColor_of_noSlot hk]
  | some k => rw [storeColor_of_lowestSlot hk, fieldGet_fieldSet_other _ _ _ x.fieldWidth _ hij]

end

/-! ## The statements -/

/-- Settles O34: the buffer opens and the element is in it. -/
theorem getFixed : Obligations.GetFixed := fun _ _ ho hi =>
  (exec_get_eq (openBuffer_of_opensFixed ho)).trans (answerElement_fixed hi)

/-- Settles O35, as O34, with the palette entry that the element's field names. -/
theorem getIndexed : Obligations.GetIndexed := by
  intro s x pf ho hi
  rw [exec_get_eq (openBuffer_of_opensIndexed ho)]
  exact answerElement_indexed hi

/-- Settles O36: as `GET`, after the coordinate test. -/
theorem pgetFixed : Obligations.PgetFixed := fun _ _ ho hp hi =>
  (exec_pget_eq (openBuffer_of_opensFixed ho) hp).trans (answerElement_fixed hi)

/-- Settles O37: as `GET`, after the coordinate test. -/
theorem pgetIndexed : Obligations.PgetIndexed := by
  intro s x pf ho hp hi
  rw [exec_pget_eq (openBuffer_of_opensIndexed ho) hp]
  exact answerElement_indexed hi

/-- Settles O38: the element write is an encode, which leaves the bits the element does not own. -/
theorem setFixed : Obligations.SetFixed := fun _ _ ho hi =>
  ⟨(exec_set_eq (openBuffer_of_opensFixed ho)).trans (storeElement_fixed hi),
    fun _ _ => getLsbD_encodeColor_of_not_owned (Color.type_fromWord _ _)⟩

/-- Settles O39: as `SET`, after the coordinate test. -/
theorem psetFixed : Obligations.PsetFixed := fun _ _ ho hp hi =>
  ⟨(exec_pset_eq (openBuffer_of_opensFixed ho) hp).trans (storeElement_fixed hi),
    fun _ _ => getLsbD_encodeColor_of_not_owned (Color.type_fromWord _ _)⟩

/-- Settles O40: the element write is the field of the slot the scan finds. -/
theorem setIndexed : Obligations.SetIndexed := by
  intro s x pf ho hi
  rw [exec_set_eq (openBuffer_of_opensIndexed ho)]
  exact storeElement_indexed hi

/-- Settles O41: as `SET`, after the coordinate test. -/
theorem psetIndexed : Obligations.PsetIndexed := by
  intro s x pf ho hp hi
  rw [exec_pset_eq (openBuffer_of_opensIndexed ho) hp]
  exact storeElement_indexed hi

/-- Settles O42: `GET` decodes what `SET` encoded. -/
theorem setThenGet : Obligations.SetThenGet := by
  intro s f ho hi col
  have hcol : col.type = f.ctype := Color.type_fromWord _ _
  let m := encodeColor s.cfg f s.mem s.bufBase.toNat s.arg0.toNat col
  have hout : Color.fromWord f.ctype (decodeColor s.cfg f m s.bufBase.toNat s.arg0.toNat).toWord = _ :=
    Color.fromWord_toWord_of_type (type_decodeColor ..)
  have hset : exec .set s = .next (s.putMemory m false) :=
    (exec_set_eq (openBuffer_of_opensFixed ho)).trans (storeElement_fixed hi)
  refine ⟨_, _, hset, getFixed (s.putMemory m false) f ho hi, ?channels, fun hx => ?exact⟩
  case channels => exact (congrArg Color.channels hout).trans (channels_decodeColor_encodeColor hcol)
  case exact => exact congrArg Color.toWord (decodeColor_encodeColor_of_expressible hx)

/-- Settles O43: `SET` writes one element, and elements own no common bit. -/
theorem setKeepsNeighbours : Obligations.SetKeepsNeighbours := by
  refine ⟨fun s t f j ho ht hj => ?fixed, fun s t x pf j ho ht hj => ?indexed⟩
  case fixed =>
    rw [exec_set_eq (openBuffer_of_opensFixed ho)] at ht
    obtain hm | hm := mem_of_storeElement ht <;> rw [hm]
    exact decodeColor_encodeColor_other (Color.type_fromWord _ _) hj.symm
  case indexed =>
    rw [exec_set_eq (openBuffer_of_opensIndexed ho)] at ht
    obtain hm | hm := mem_of_storeElement ht <;> rw [hm]
    exact fieldGet_storeColor_other hj.symm

/-- Settles O44: the field reads the slot that was found, whose entry the write to the other window left alone. -/
theorem indexedSetThenGet : Obligations.IndexedSetThenGet := by
  intro s x pf k ho hi hk hdisjoint
  have hset := (exec_set_eq (openBuffer_of_opensIndexed ho)).trans (storeElement_of_lowestSlot hi hk)
  have hfield := fieldGet_fieldSet_toNat (c := s.cfg) (m := s.mem) (base := s.bufBase.toNat) (i := s.arg0.toNat) x
    (lt_of_lowestSlot hk)
  have hpalette : SameBytes s.palBase.toNat s.palLen.toNat
      (fieldSet s.cfg s.mem s.bufBase.toNat s.arg0.toNat x.bits (BitVec.ofNat x.bits k)) s.mem :=
    fun a hle hlt => read_fieldSet_of_outside x _ hi (by omega)
  obtain ⟨hslot, hentry, -⟩ := hk
  have hentries : k < s.entries pf.bpp := hslot.trans_le (Nat.min_le_right ..)
  generalize fieldSet s.cfg s.mem s.bufBase.toNat s.arg0.toNat x.bits (BitVec.ofNat x.bits k) = m at *
  have hget := (getIndexed (s.putMemory m false) x pf ho hi).1 (hfield.trans_lt hentries)
  refine ⟨_, _, hset, hget, congrArg Color.toWord ?_, rfl⟩
  calc decodeColor s.cfg pf m s.palBase.toNat (fieldGet s.cfg m s.bufBase.toNat s.arg0.toNat x.bits).toNat
      = decodeColor s.cfg pf m s.palBase.toNat k := by rw [hfield]
    _ = s.entry pf k := decodeColor_of_sameBytes hpalette hentries
    _ = Color.fromWord pf.ctype s.colorIn := hentry

end Sys2Proof.Machine
end

section
/-! PROOFS. 43_buffer: the default fill (R212) as element writes in ascending order. -/

namespace Sys2Proof.Machine

section
variable {s : State} {b : BufferCodec} {f pf : FixedFormat} {x : IndexedFormat} {col : Color} {i k n : Nat}
  {m : Memory} {ok : Bool}

/-! ## The walk of `INIT` (43_buffer R212) -/

/-- The walk's last write, where `fillColors_succ` splits off its first. -/
theorem fillColors_last :
    fillColors s b col i (n + 1) m ok =
      let r := fillColors s b col i n m ok
      let q := storeColor s b r.1 (i + n) col
      (q.1, r.2 && q.2) := by
  induction n generalizing i m ok with
  | zero => rfl
  | succ n ih =>
    rw [fillColors_succ, ih, fillColors_succ, Nat.succ_add_eq_add_succ]

/-- The memory after the first `n` default fills, and whether each found its slot. -/
def State.filled (s : State) (b : BufferCodec) (n : Nat) : Memory × Bool :=
  fillColors s b (defaultColor b.ctype) 0 n s.mem true

/-- The write of the default colour to element `n` after the `n` fills before it. -/
def State.fill (s : State) (b : BufferCodec) (n : Nat) : Memory × Bool :=
  storeColor s b (s.filled b n).1 n (defaultColor b.ctype)

theorem filled_succ : s.filled b (n + 1) = ((s.fill b n).1, (s.filled b n).2 && (s.fill b n).2) := by
  rw [State.filled, fillColors_last, Nat.zero_add]
  rfl

theorem exec_init_eq (ho : openBuffer s = .ok b) :
    exec .init s =
      .next (s.putMemory (s.filled b (bufferCount s b)).1 (noMatchOf (s.filled b (bufferCount s b)).2)) := by
  simp only [exec, execInit, ho, except_bind_ok]
  rfl

/-- The fill ends unmatched when one of its writes does. -/
theorem noMatchOf_filled : noMatchOf (s.filled b n).2 = (List.range n).any fun i => noMatchOf (s.fill b i).2 := by
  induction n with
  | zero => rfl
  | succ n ih =>
    rw [filled_succ, List.range_succ, List.any_append, ← ih]
    simp [noMatchOf]

/-! ## Fixed-depth buffers -/

/-- Black and full opacity are expressible at every depth (00_scope R9). -/
theorem expressible_defaultColor (f : FixedFormat) : Expressible f (defaultColor f.ctype) := by
  refine ⟨type_defaultColor _, ?_⟩
  cases f <;> simp only [FixedFormat.widths, defaultColor, FixedFormat.ctype, Color.channels, List.forall₂_cons] <;>
    decide

theorem filled_fixed_matched : (s.filled (.fixed f) n).2 = true := by
  induction n with
  | zero => rfl
  | succ n ih =>
    rw [filled_succ, ih]
    rfl

/-- An element that was filled stays so: the writes that follow are to other elements. -/
theorem decodeColor_filled (hi : i < n) :
    decodeColor s.cfg f (s.filled (.fixed f) n).1 s.bufBase.toNat i = defaultColor f.ctype := by
  induction n with
  | zero => cases hi
  | succ n ih =>
    rw [filled_succ]
    by_cases h : n = i
    · subst h
      exact decodeColor_encodeColor_of_expressible (expressible_defaultColor f)
    · exact (decodeColor_encodeColor_other (type_defaultColor _) h).trans (ih (by omega))

theorem getLsbD_filled_of_not_owned {a bit : Nat}
    (h : ∀ i < n, ¬ ownsBitAt (footprint s.cfg f i) s.bufBase.toNat a bit) :
    ((s.filled (.fixed f) n).1.read a).getLsbD bit = (s.mem.read a).getLsbD bit := by
  induction n with
  | zero => rfl
  | succ n ih =>
    rw [filled_succ, ← ih fun i hi => h i (by omega)]
    exact getLsbD_encodeColor_of_not_owned (type_defaultColor _) (h n (by omega))

/-! ## Indexed buffers with windows that do not overlap -/

/-- The buffer window and the palette window have no byte in common. -/
abbrev State.WindowsDisjoint (s : State) : Prop :=
  s.bufBase.toNat + s.bufLen.toNat ≤ s.palBase.toNat ∨ s.palBase.toNat + s.palLen.toNat ≤ s.bufBase.toNat

/-- While the fill has changed nothing outside the buffer, its next write finds the slot the palette had before. -/
theorem palFind_of_outside (hd : s.WindowsDisjoint)
    (h : ∀ a, a < s.bufBase.toNat ∨ s.bufBase.toNat + s.bufLen.toNat ≤ a → m.read a = s.mem.read a) :
    palFind s.cfg pf m s.palBase.toNat (paletteCount s pf) x.bits col = s.findSlot x pf col :=
  palFind_of_sameBytes fun a hle hlt => h a (by omega)

/-- The fill with a slot for the default colour: every write found it, the fields before the present one hold it, and no
byte outside the buffer changed. -/
theorem filled_of_lowestSlot (hd : s.WindowsDisjoint) (hk : s.LowestSlot x pf (defaultColor pf.ctype) k)
    (hn : n ≤ s.elements x.bits) :
    (s.filled (.indexed x pf) n).2 = true ∧
    (∀ i < n, (fieldGet s.cfg (s.filled (.indexed x pf) n).1 s.bufBase.toNat i x.bits).toNat = k) ∧
    (∀ a, a < s.bufBase.toNat ∨ s.bufBase.toNat + s.bufLen.toNat ≤ a →
      (s.filled (.indexed x pf) n).1.read a = s.mem.read a) := by
  induction n with
  | zero => exact ⟨rfl, nofun, fun _ _ => rfl⟩
  | succ n ih =>
    obtain ⟨hok, hfields, houtside⟩ := ih (by omega)
    have hfill : s.fill (.indexed x pf) n = _ :=
      storeColor_of_lowestSlot ((palFind_of_outside hd houtside).trans (findSlot_eq_some_iff.2 hk))
    rw [filled_succ, hfill, hok]
    refine ⟨rfl, fun i hi => ?_, fun a ha => ?_⟩
    · by_cases h : n = i
      · subst h
        exact fieldGet_fieldSet_toNat x (lt_of_lowestSlot hk)
      · rw [fieldGet_fieldSet_other _ _ _ x.fieldWidth _ h]
        exact hfields i (by omega)
    · exact (read_fieldSet_of_outside x _ hn ha).trans (houtside a ha)

/-- The fill without a slot for the default colour drops every write. -/
theorem filled_of_noSlot (hk : s.NoSlot x pf (defaultColor pf.ctype)) :
    s.filled (.indexed x pf) n = (s.mem, decide (n = 0)) := by
  induction n with
  | zero => rfl
  | succ n ih =>
    have hfill : s.fill (.indexed x pf) n = (s.mem, false) := by
      rw [State.fill, ih]
      exact storeColor_of_noSlot (findSlot_eq_none_iff.2 hk)
    rw [filled_succ, hfill, Bool.and_false]
    rfl

end

/-! ## The operands of one write of the fill -/

/-- The state with the index of an element in `ARG0` and the word of a colour in `COLOR_IN`. -/
def State.withElement (s : State) (i : Nat) (col : Color) : State :=
  { s with arg0 := BitVec.ofNat 32 i, colorIn := col.toWord }

@[simp] theorem State.withElement_arg0 (s : State) (i : Nat) (col : Color) :
    (s.withElement i col).arg0 = BitVec.ofNat 32 i := rfl

/-- The state with another memory. -/
def State.withMem (s : State) (m : Memory) : State := { s with mem := m }

@[simp] theorem State.withMem_mem (s : State) (m : Memory) : (s.withMem m).mem = m := rfl
@[simp] theorem State.withMem_arg0 (s : State) (m : Memory) : (s.withMem m).arg0 = s.arg0 := rfl

/-- `SET` of a colour of the buffer's type to an element of the buffer is one element write. -/
theorem exec_set_withElement {s : State} {b : BufferCodec} {m : Memory} {i : Nat} {col : Color}
    (ho : openBuffer s = .ok b) (hi : i < bufferCount s b) (hcol : col.type = b.ctype) :
    exec .set ((s.withElement i col).withMem m) =
      .next (((s.withElement i col).withMem m).putMemory (storeColor s b m i col).1
        (noMatchOf (storeColor s b m i col).2)) := by
  have hword : (BitVec.ofNat 32 i).toNat = i := Nat.mod_eq_of_lt (hi.trans (elementCount_lt _ _))
  have hopen : openBuffer ((s.withElement i col).withMem m) = .ok b := ho
  have hoperand : colorOperand ((s.withElement i col).withMem m) b.ctype = col :=
    Color.fromWord_toWord_of_type hcol
  rw [exec_set_eq hopen, State.withMem_arg0, State.withElement_arg0, hword,
    storeElement_of_lt (s := (s.withElement i col).withMem m) hi, hoperand]
  cases b <;> rfl

/-! ## The statements -/

/-- Settles O47: every write is an encode of a colour that the format can express. -/
theorem initFixed : Obligations.InitFixed := by
  intro s f ho
  refine ⟨_, ?_, fun i hi => decodeColor_filled hi, fun a b h => getLsbD_filled_of_not_owned h⟩
  rw [exec_init_eq (openBuffer_of_opensFixed ho), filled_fixed_matched]
  rfl

/-- Settles O48: the palette is out of the fill's reach, so that every write finds the same slot or none does. -/
theorem initIndexed : Obligations.InitIndexed := by
  intro s x pf ho hd
  have hinit := exec_init_eq (openBuffer_of_opensIndexed ho)
  refine ⟨fun k hk => ?found, fun hno => ?dropped⟩
  case found =>
    obtain ⟨hok, hfields, houtside⟩ := filled_of_lowestSlot hd hk (Nat.le_refl _)
    refine ⟨_, ?_, hfields, houtside⟩
    rw [hinit, bufferCount, count, BufferCodec.bpp, hok]
    rfl
  case dropped =>
    have hflag (n : Nat) : noMatchOf (decide (n = 0)) = decide (0 < n) := by cases n <;> rfl
    rw [hinit, filled_of_noSlot hno, hflag]
    rfl

/-- Settles O49: a `SET` of the default colour to an element of the buffer, on any memory, is one write of the fill. -/
theorem initIsAscendingSets : Obligations.InitIsAscendingSets := by
  intro s bpp t h
  obtain ⟨b, ho, rfl, rfl⟩ : ∃ b, openBuffer s = .ok b ∧ b.bpp = bpp ∧ b.ctype = t := by
    obtain ⟨f, ho, rfl, rfl⟩ | ⟨x, pf, ho, rfl, rfl⟩ := h
    · exact ⟨_, openBuffer_of_opensFixed ho, rfl, rfl⟩
    · exact ⟨_, openBuffer_of_opensIndexed ho, rfl, rfl⟩
  refine ⟨fun i => (s.filled b i).1, fun i => noMatchOf (s.fill b i).2, rfl, fun i hi => ?set, ?init⟩
  case init =>
    rw [exec_init_eq ho, noMatchOf_filled]
    rfl
  case set =>
    simp only [filled_succ]
    exact exec_set_withElement (m := (s.filled b i).1) ho hi (type_defaultColor _)

end Sys2Proof.Machine
end

section
/-! PROOFS. The whole machine: what a command that completes has written (10_state R22, R37, R38, R41), where it writes
memory (20_memory R63), and the invariant of a step. -/

namespace Sys2Proof

/-- What a command produces. -/
inductive ResultKind where
  | color | number | memory

/-- What each command produces when it completes (30_encoding Table 30-2). -/
def Instr.kind : Instr → ResultKind
  | .get | .pget | .palget => .color
  | .cvtRgbGs | .cvtGsRgb | .cvtGsRgba | .cvtRgbaRgb | .cvtRgbaGsa | .cvtGsaRgba | .cvtBwGs | .cvtGsBw => .color
  | .numc | .capb | .xlate | .palnum | .palfind => .number
  | .set | .init | .pset => .memory

end Sys2Proof

namespace Sys2Proof.Machine

/-! ## Element writes stay in the buffer window (20_memory R63) -/

section
variable {s : State} {b : BufferCodec} {m : Memory} {ok : Bool} {P : Memory → Prop}

/-- What every write of a byte of the buffer window keeps, an element write keeps. -/
theorem storeColor_induction {i : Nat} {col : Color} (hi : i < bufferCount s b) (h0 : P m)
    (hw : ∀ m' a v, s.bufBase.toNat ≤ a → a < s.bufBase.toNat + s.bufLen.toNat → P m' → P (m'.write a v)) :
    P (storeColor s b m i col).1 := by
  obtain ⟨f, rfl, he⟩ | ⟨x, pf, rfl, -, he⟩ | ⟨x, pf, k, rfl, -, he⟩ := storeColor_cases s b m i col <;> rw [he]
  · refine encodeColor_induction s.cfg f m _ i col h0 fun m' a v ha => ?_
    obtain ⟨hle, hlt⟩ := lt_of_touches (f := .fixed f) hi ha
    exact hw m' a v hle hlt
  · exact h0
  · rw [fieldSet_eq s.cfg m _ i x.fieldWidth]
    exact hw _ _ _ (Nat.le_add_right _ _) (Nat.add_lt_add_left (fieldByte_lt x hi) _) h0

/-- What a command can make of the memory of `s`: element writes of the buffer, one after another; with whether every
one of them found its slot. -/
inductive Stored (s : State) (b : BufferCodec) : Memory → Bool → Prop
  | start : Stored s b s.mem true
  | store {m : Memory} {ok : Bool} {i : Nat} (col : Color) : Stored s b m ok → i < bufferCount s b →
      Stored s b (storeColor s b m i col).1 (ok && (storeColor s b m i col).2)

theorem Stored.induction (h : Stored s b m ok) (h0 : P s.mem)
    (hw : ∀ m' a v, s.bufBase.toNat ≤ a → a < s.bufBase.toNat + s.bufLen.toNat → P m' → P (m'.write a v)) : P m := by
  induction h with
  | start => exact h0
  | store col _ hi ih => exact storeColor_induction hi ih hw

/-- A write to a fixed-depth buffer needs no slot. -/
theorem Stored.ok_of_fixed {f : FixedFormat} (h : Stored s (.fixed f) m ok) : ok = true := by
  induction h with
  | start => rfl
  | store col _ _ ih => rw [ih]; rfl

theorem stored_filled {n : Nat} (hn : n ≤ bufferCount s b) : Stored s b (s.filled b n).1 (s.filled b n).2 := by
  induction n with
  | zero => exact .start
  | succ n ih =>
    rw [filled_succ]
    exact .store _ (ih (by omega)) hn

/-- Only bytes of the buffer window change. -/
theorem Stored.read_of_outside (h : Stored s b m ok) {a : Nat}
    (ha : a < s.bufBase.toNat ∨ s.bufBase.toNat + s.bufLen.toNat ≤ a) : m.read a = s.mem.read a :=
  h.induction (P := fun m' => m'.read a = s.mem.read a) rfl fun m' k v hle hlt hm =>
    (Memory.read_write_other m' v (by omega)).trans hm

end

/-! ## How a command ends (30_encoding Table 30-2; 10_state R37, R38, R41) -/

/-- The states a command that completes can answer, by what it produces. -/
inductive Completes (i : Instr) (s : State) : State → Prop
  | color (w : Word) : i.kind = .color → Completes i s (s.putColorOut w)
  | number (w : Word) (noMatch : Bool) : i.kind = .number → (i ≠ .palfind → noMatch = false) →
      Completes i s (s.putResult w noMatch)
  | memory {b : BufferCodec} {m : Memory} {ok : Bool} : i.kind = .memory → openBuffer s = .ok b → Stored s b m ok →
      Completes i s (s.putMemory m (noMatchOf ok))

section
variable {i : Instr} {s t : State}

theorem firstFault_ne_none_of_fires {ft : FaultTest} (hm : ft ∈ faultTests i s) (hf : ft.fires = true) :
    firstFault i s ≠ none :=
  fun hn => List.find?_eq_none.1 hn ft hm hf

/-- A part of a command that faults has a test among the command's that fires. -/
theorem firstFault_ne_none_of_error {α : Type} {x : Except EngineFault α} {e : EngineFault} {ts : List FaultTest}
    (hx : recorded x = firstRecord ts) (he : x = .error e) (hts : ts ⊆ faultTests i s) : firstFault i s ≠ none := by
  rw [he, firstRecord] at hx
  cases hf : ts.find? (·.fires) with
  | none => rw [hf] at hx; cases hx
  | some ft => exact firstFault_ne_none_of_fires (hts (List.mem_of_find?_eq_some hf)) (List.find?_some hf)

theorem completes_of_setColor {b : BufferCodec} {k : Nat} {col : Color} {r : Memory × Bool}
    (hi : i.kind = .memory) (ho : openBuffer s = .ok b) (hr : setColor s b k col = .ok r) :
    Completes i s (s.putMemory r.1 (noMatchOf r.2)) := by
  obtain ⟨hk, hc⟩ | ⟨-, hc⟩ := setColor_cases s b k col <;> cases hc.symm.trans hr
  exact .memory hi ho (Stored.store col .start hk)

/-- Everything a command can answer: the fault record of a test that fired, or its results. -/
theorem exec_next_cases (h : exec i s = .next t) :
    (firstFault i s ≠ none ∧ ∃ e, t = s.raise e) ∨ Completes i s t := by
  have faulted {α : Type} {x : Except EngineFault α} {e : EngineFault} {ts : List FaultTest}
      (hx : recorded x = firstRecord ts) (he : x = .error e) (hts : ts ⊆ faultTests i s) (e' : EngineFault) :
      (firstFault i s ≠ none ∧ ∃ e, s.raise e' = s.raise e) ∨ Completes i s (s.raise e') :=
    .inl ⟨firstFault_ne_none_of_error hx he hts, e', rfl⟩
  cases i with
  | numc =>
    obtain ⟨f, -, hx⟩ | ⟨e, he, hx⟩ := exec_numc_cases s <;> cases hx.symm.trans h
    · exact .inr (.number _ _ rfl fun _ => rfl)
    · exact faulted (recorded_checkFmtBuf s) he (by simp [faultTests]) e
  | palnum =>
    obtain ⟨f, -, hx⟩ | ⟨e, he, hx⟩ := exec_palnum_cases s <;> cases hx.symm.trans h
    · exact .inr (.number _ _ rfl fun _ => rfl)
    · exact faulted (recorded_checkFmtPal s) he (by simp [faultTests]) e
  | xlate =>
    obtain ⟨-, hx⟩ | ⟨e, he, hx⟩ := exec_xlate_cases s <;> cases hx.symm.trans h
    · exact .inr (.number _ _ rfl fun _ => rfl)
    · exact faulted (recorded_checkPoint s) he (by simp [faultTests]) e
  | capb =>
    obtain ⟨f, -, -, hx⟩ | ⟨f, hf, hge, hx⟩ | ⟨e, he, hx⟩ := exec_capb_cases s <;> cases hx.symm.trans h
    · exact .inr (.number _ _ rfl fun _ => rfl)
    · rw [← bppOfCode_of_some (ofCode_of_checkFmtBuf hf)] at hge
      exact .inl ⟨firstFault_ne_none_of_fires (List.mem_cons_of_mem _ List.mem_cons_self) (decide_eq_true hge), _, rfl⟩
    · exact faulted (recorded_checkFmtBuf s) he (by simp [faultTests]) e
  | get =>
    obtain ⟨b, col, -, -, hx⟩ | ⟨b, e, ho, he, hx⟩ | ⟨e, he, hx⟩ := exec_get_cases s <;> cases hx.symm.trans h
    · exact .inr (.color _ rfl)
    · exact faulted (recorded_getColor ho _) he (by simp [faultTests]) e
    · exact faulted (recorded_openBuffer s) he (by simp [faultTests]) e
  | pget =>
    obtain ⟨b, col, -, -, -, hx⟩ | ⟨b, e, ho, -, he, hx⟩ | ⟨b, e, -, he, hx⟩ | ⟨e, he, hx⟩ := exec_pget_cases s <;>
      cases hx.symm.trans h
    · exact .inr (.color _ rfl)
    · exact faulted (recorded_getColor ho _) he (by simp [faultTests, viewIndex]) e
    · exact faulted (recorded_checkPoint s) he (by simp [faultTests]) e
    · exact faulted (recorded_openBuffer s) he (by simp [faultTests]) e
  | palget =>
    obtain ⟨pf, col, -, -, -, hx⟩ | ⟨pf, e, hf, -, he, hx⟩ | ⟨pf, e, -, he, hx⟩ | ⟨e, he, hx⟩ := exec_palget_cases s <;>
      cases hx.symm.trans h
    · exact .inr (.color _ rfl)
    · exact faulted (recorded_palGet s (ofCode_of_checkFmtPal hf) _) he (by simp [faultTests]) e
    · exact faulted (recorded_checkPal s) he (by simp [faultTests]) e
    · exact faulted (recorded_checkFmtPal s) he (by simp [faultTests]) e
  | palfind =>
    obtain ⟨x, pf, -, -, -, -, hx⟩ | ⟨x, pf, k, -, -, -, -, hx⟩ | ⟨x, pf, e, -, -, he, hx⟩ | ⟨x, e, -, he, hx⟩ |
      ⟨e, he, hx⟩ := exec_palfind_cases s <;> cases hx.symm.trans h
    · exact .inr (.number _ _ rfl fun hne => absurd rfl hne)
    · exact .inr (.number _ _ rfl fun _ => rfl)
    · exact faulted (recorded_checkPal s) he (by simp [faultTests]) e
    · exact faulted (recorded_checkFmtPal s) he (by simp [faultTests]) e
    · exact faulted (recorded_checkFmtIndexed s) he (by simp [faultTests]) e
  | set =>
    obtain ⟨b, r, ho, hr, hx⟩ | ⟨b, e, ho, he, hx⟩ | ⟨e, he, hx⟩ := exec_set_cases s <;> cases hx.symm.trans h
    · exact .inr (completes_of_setColor rfl ho hr)
    · exact faulted (recorded_setColor ho _ _) he (by simp [faultTests]) e
    · exact faulted (recorded_openBuffer s) he (by simp [faultTests]) e
  | pset =>
    obtain ⟨b, r, ho, -, hr, hx⟩ | ⟨b, e, ho, -, he, hx⟩ | ⟨b, e, -, he, hx⟩ | ⟨e, he, hx⟩ := exec_pset_cases s <;>
      cases hx.symm.trans h
    · exact .inr (completes_of_setColor rfl ho hr)
    · exact faulted (recorded_setColor ho _ _) he (by simp [faultTests, viewIndex]) e
    · exact faulted (recorded_checkPoint s) he (by simp [faultTests]) e
    · exact faulted (recorded_openBuffer s) he (by simp [faultTests]) e
  | init =>
    obtain ⟨b, ho, hx⟩ | ⟨e, he, hx⟩ := exec_init_cases s <;> cases hx.symm.trans h
    · exact .inr (.memory rfl ho (stored_filled (Nat.le_refl _)))
    · exact faulted (recorded_openBuffer s) he (by simp [faultTests]) e
  | cvtRgbGs | cvtGsRgb | cvtGsRgba | cvtRgbaRgb | cvtRgbaGsa | cvtGsaRgba | cvtBwGs | cvtGsBw =>
    cases h
    exact .inr (.color _ rfl)

end

/-! ## The statements of 10_state and 20_memory -/

/-- The commands of Table 30-2 that write `COLOR_OUT`, by the others. -/
theorem kind_eq_color_iff (i : Instr) :
    i.kind = .color ↔ i ∉ [Instr.numc, .set, .init, .capb, .xlate, .pset, .palnum, .palfind] := by
  cases i <;> simp [Instr.kind]

theorem kind_eq_number_iff (i : Instr) :
    i.kind = .number ↔ i ∈ [Instr.numc, .capb, .xlate, .palnum, .palfind] := by
  cases i <;> simp [Instr.kind]

theorem kind_eq_memory_iff (i : Instr) : i.kind = .memory ↔ i ∈ [Instr.set, .init, .pset] := by
  cases i <;> simp [Instr.kind]

/-- Settles O52: a fault writes its record alone, a result its own registers. -/
theorem commandFrame : Obligations.CommandFrame := by
  intro i s t h
  obtain ⟨-, e, rfl⟩ | hc := exec_next_cases h
  · exact ⟨by simp, fun _ => rfl, fun _ => rfl, fun _ => rfl⟩
  cases hc with
  | color w hi => exact ⟨by simp, fun hm => absurd hm ((kind_eq_color_iff i).1 hi), fun _ => rfl, fun _ => rfl⟩
  | number w nm hi => exact ⟨by simp, fun _ => rfl, fun hm => absurd ((kind_eq_number_iff i).1 hi) hm, fun _ => rfl⟩
  | memory hi => exact ⟨by simp, fun _ => rfl, fun _ => rfl, fun hm => absurd ((kind_eq_memory_iff i).1 hi) hm⟩

/-- Settles O53: only a search of the palette can leave `NOMATCH` set, and a fixed-depth buffer is written without
one. -/
theorem noMatchRewritten : Obligations.NoMatchRewritten := by
  intro i s t h
  have hcompletes (hn : firstFault i s = none) : Completes i s t :=
    (exec_next_cases h).resolve_left fun hf => hf.1 hn
  refine ⟨fun hf => ?faulted, fun hn hm => ?unsearched, fun hn hpf hfmt => ?fixed⟩
  case faulted =>
    obtain ⟨ft, hft⟩ := Option.ne_none_iff_exists'.1 hf
    cases ((firstFaultDecides i s).2.1 ft hft).symm.trans h
    rfl
  case unsearched =>
    simp only [List.mem_cons, List.not_mem_nil, or_false, not_or] at hm
    obtain ⟨hset, hpset, hinit, hpf⟩ := hm
    cases hcompletes hn with
    | color => rfl
    | number w nm _ hnm => exact hnm hpf
    | memory hi => exact absurd ((kind_eq_memory_iff i).1 hi) (by simp [hset, hpset, hinit])
  case fixed =>
    cases hcompletes hn with
    | color => rfl
    | number w nm _ hnm => exact hnm hpf
    | memory _ ho hs =>
      obtain ⟨-, ⟨f, rfl, -⟩ | ⟨x, pf, rfl, hx, -⟩⟩ := openBuffer_eq_ok ho
      · rw [hs.ok_of_fixed]
        rfl
      · rw [codeIndexed_of_indexed hx] at hfmt
        cases hfmt

/-- Settles O54: only the element writes of a buffer that opens change memory. -/
theorem writesStayInWindow : Obligations.WritesStayInWindow := by
  intro i s t a h ha
  obtain ⟨-, e, rfl⟩ | hc := exec_next_cases h
  · exact absurd rfl ha
  cases hc with
  | color | number => exact absurd rfl ha
  | memory _ ho hs =>
    have hwindow : s.BufferFits := (openBuffer_eq_ok ho).1
    have hin : ¬ (a < s.bufBase.toNat ∨ s.bufBase.toNat + s.bufLen.toNat ≤ a) := fun hout =>
      ha (hs.read_of_outside hout)
    omega

/-! ## The invariant (10_state R26, R29, R39, R40, R42) -/

/-- Every fault has one of the six causes (60_exceptions R241). -/
theorem EngineFault.code_range (e : EngineFault) : 1 ≤ e.code.toNat ∧ e.code.toNat ≤ 6 := by
  cases e <;> simp [EngineFault.code]

section
variable {s t : State}

theorem inv_raise (h : s.Inv) (e : EngineFault) : (s.raise e).Inv := by
  obtain ⟨hwf, hbelow, hbuf, hpal, -, -⟩ := h
  exact ⟨hwf, hbelow, hbuf, hpal, nofun, fun _ => e.code_range⟩

theorem inv_of_exec {i : Instr} (h : s.Inv) (hx : exec i s = .next t) : t.Inv := by
  obtain ⟨-, e, rfl⟩ | hc := exec_next_cases hx
  · exact inv_raise h e
  cases hc with
  | color | number => exact h
  | memory _ ho hs =>
    obtain ⟨hwf, hbelow, hrest⟩ := h
    have hwindow := (openBuffer_eq_ok ho).1
    refine ⟨hs.induction (P := fun m => m.wf = true) hwf fun m a v _ _ hm => Memory.wf_write a v hm, ?_, hrest⟩
    exact hs.induction (P := fun m => m.below s.cfg.memSize = true) hbelow fun m a v _ hlt hm =>
      Memory.below_write v (by omega) hm

theorem inv_softReset (h : s.Inv) : s.softReset.Inv := by
  obtain ⟨hwf, hbelow, -⟩ := h
  exact ⟨hwf, hbelow, s.cfg.memSize_pos, s.cfg.memSize_pos, fun _ => ⟨rfl, rfl⟩, nofun⟩

theorem inv_writeReg (h : s.Inv) (r : Reg) (w : Word) : (s.writeReg r w).Inv := by
  have hbase : (keepAddrBits s.cfg w).toNat < s.cfg.memSize := by
    rw [keepAddrBits_toNat]
    exact Nat.mod_lt _ s.cfg.memSize_pos
  obtain ⟨hwf, hbelow, hbuf, hpal, hrecord⟩ := h
  cases r with
  | bufBase => exact ⟨hwf, hbelow, hbase, hpal, hrecord⟩
  | palBase => exact ⟨hwf, hbelow, hbuf, hbase, hrecord⟩
  | _ => exact ⟨hwf, hbelow, hbuf, hpal, hrecord⟩

theorem inv_of_regWrite {off : BitVec 8} {w : Word} (h : s.Inv) (hx : regWrite exec off w s = .next t) : t.Inv := by
  obtain ⟨-, he⟩ | ⟨-, -, he⟩ | ⟨-, he⟩ | ⟨r, -, -, -, he⟩ | ⟨-, -, he⟩ | ⟨r, -, -, -, -, he⟩ :=
    regWrite_cases (run := exec) off w s <;> rw [he] at hx
  case inr.inr.inr.inr.inl =>
    obtain ⟨i, -, hrun⟩ | ⟨e, -, hrun⟩ := runCommand_cases (run := exec) w s <;> rw [hrun] at hx
    · exact inv_of_exec h hx
    · cases hx
      exact inv_raise h _
  all_goals cases hx
  · exact h
  · obtain ⟨-, hc⟩ | ⟨-, hc⟩ := ctrlWrite_cases w s <;> rw [hc]
    · exact inv_softReset h
    · exact h
  · exact h
  · exact inv_writeReg h r w

theorem inv_of_perform {act : HostAction} (h : s.Inv) (hx : perform exec act s = .next t) : t.Inv := by
  cases act with
  | regWrite off w => exact inv_of_regWrite h hx
  | regRead off =>
    obtain ⟨-, he⟩ | ⟨-, he⟩ := regRead_cases off s <;> cases he.symm.trans hx
    exact h
  | memWrite a v =>
    obtain ⟨ha, he⟩ | ⟨-, he⟩ := hostMemWrite_cases a v s <;> cases he.symm.trans hx
    obtain ⟨hwf, hbelow, hrest⟩ := h
    exact ⟨Memory.wf_write _ v hwf, Memory.below_write v ha hbelow, hrest⟩
  | memRead a =>
    obtain ⟨-, he⟩ | ⟨-, he⟩ := hostMemRead_cases a s <;> cases he.symm.trans hx
    exact h

end

/-- Settles O58: a step is a host action on the state without it, and the invariant does not speak of the host's
list. -/
theorem stepKeepsInvariant : Obligations.StepKeepsInvariant := by
  intro s t h hx
  obtain ⟨-, he⟩ | ⟨act, rest, -, he⟩ := step_cases s <;> rw [he] at hx
  · cases hx
    exact h
  · exact inv_of_perform (s := { s with program := rest }) h hx

end Sys2Proof.Machine
end

section
/-! PROOFS. What commands read: memory inside the two windows (20_memory R60, R63), the palette registers only for an
indexed buffer (60_exceptions R249). -/

namespace Sys2Proof.Machine

/-! ## Commands that touch no memory (20_memory R60) -/

section
variable {s t : State} {m : Memory}

/-- The conversions and the numeric commands answer the same registers on every memory. -/
theorem exec_withMem_of_memoryless {i : Instr}
    (hi : i ∈ [Instr.numc, .capb, .xlate, .palnum, .cvtRgbGs, .cvtGsRgb, .cvtGsRgba, .cvtRgbaRgb, .cvtRgbaGsa,
      .cvtGsaRgba, .cvtBwGs, .cvtGsBw]) (h : exec i s = .next t) : exec i (s.withMem m) = .next (t.withMem m) := by
  have finish {r r' : Except EngineFault State} (hr : r' = (State.withMem · m) <$> r) (h : s.finish r = .next t) :
      (s.withMem m).finish r' = .next (t.withMem m) := State.finish_map (g := (State.withMem · m)) (fun _ => rfl) hr h
  cases i with
  | numc => exact finish (except_bind_map (checkFmtBuf s) fun _ => rfl) h
  | palnum => exact finish (except_bind_map (checkFmtPal s) fun _ => rfl) h
  | xlate => exact finish (except_bind_map (checkPoint s) fun _ => rfl) h
  | capb =>
    obtain ⟨f, hf, hlt, hx⟩ | ⟨f, hf, hge, hx⟩ | ⟨e, he, hx⟩ := exec_capb_cases s <;> cases hx.symm.trans h
    · exact exec_capb_of_lt (s := s.withMem m) hf hlt
    · exact exec_capb_of_ge (s := s.withMem m) hf hge
    · exact exec_capb_of_error (s := s.withMem m) he
  | cvtRgbGs | cvtGsRgb | cvtGsRgba | cvtRgbaRgb | cvtRgbaGsa | cvtGsaRgba | cvtBwGs | cvtGsBw =>
    cases h
    rfl
  | get | set | init | pget | pset | palget | palfind => exact absurd hi (by decide)

/-! ## Commands on memories that agree in the windows (20_memory R63) -/

/-- Two memories hold the same bytes in the buffer window and in the palette window. -/
def State.AgreeInWindows (s : State) (m m' : Memory) : Prop :=
  ∀ a, ((s.bufBase.toNat ≤ a ∧ a < s.bufBase.toNat + s.bufLen.toNat) ∨
    (s.palBase.toNat ≤ a ∧ a < s.palBase.toNat + s.palLen.toNat)) → m.read a = m'.read a

section
variable {m m' : Memory} {b : BufferCodec} {pf : FixedFormat} {i k : Nat} {col : Color}

theorem State.AgreeInWindows.buffer (h : s.AgreeInWindows m m') : SameBytes s.bufBase.toNat s.bufLen.toNat m m' :=
  fun a hle hlt => h a (.inl ⟨hle, hlt⟩)

theorem State.AgreeInWindows.palette (h : s.AgreeInWindows m m') : SameBytes s.palBase.toNat s.palLen.toNat m m' :=
  fun a hle hlt => h a (.inr ⟨hle, hlt⟩)

theorem palGet_withMem (h : s.AgreeInWindows m s.mem) : palGet (s.withMem m) pf k = palGet s pf k := by
  obtain hk | hk := Nat.lt_or_ge k (s.entries pf.bpp)
  · rw [palGet_of_lt hk, palGet_of_lt (s := s.withMem m) hk]
    exact congrArg _ (decodeColor_of_sameBytes h.palette hk)
  · rw [palGet_of_ge hk, palGet_of_ge (s := s.withMem m) hk]

theorem getColor_withMem (h : s.AgreeInWindows m s.mem) : getColor (s.withMem m) b i = getColor s b i := by
  obtain hi | hi := Nat.lt_or_ge i (bufferCount s b)
  · cases b with
    | fixed f =>
      rw [getColor_fixed_of_lt hi, getColor_fixed_of_lt (s := s.withMem m) hi]
      exact congrArg _ (decodeColor_of_sameBytes h.buffer hi)
    | indexed x pf =>
      rw [getColor_indexed_of_lt hi, getColor_indexed_of_lt (s := s.withMem m) hi, palGet_withMem h,
        ← fieldGet_of_sameBytes x h.buffer hi]
      rfl
  · rw [getColor_of_ge hi, getColor_of_ge (s := s.withMem m) hi]

/-- A byte on which two memories agree is the same after an encode of one colour in both. -/
theorem read_encodeColor_congr {c : Config} {f : FixedFormat} {base a : Nat} (hcol : col.type = f.ctype)
    (ha : m.read a = m'.read a) : (encodeColor c f m base i col).read a = (encodeColor c f m' base i col).read a :=
  BitVec.eq_of_getLsbD_eq fun _ _ => getLsbD_encodeColor_congr hcol (.inr (by rw [ha]))

theorem read_fieldSet_congr {c : Config} {base a : Nat} (x : IndexedFormat) (v : BitVec x.bits)
    (ha : m.read a = m'.read a) : (fieldSet c m base i x.bits v).read a = (fieldSet c m' base i x.bits v).read a := by
  rw [read_fieldSet _ _ _ _ x.fieldWidth, read_fieldSet _ _ _ _ x.fieldWidth, ha]

/-- Element writes in memories that agree find the same slot and leave memories that agree. -/
theorem storeColor_congr (h : s.AgreeInWindows m m') (hcol : col.type = b.ctype) :
    (storeColor s b m i col).2 = (storeColor s b m' i col).2 ∧
    s.AgreeInWindows (storeColor s b m i col).1 (storeColor s b m' i col).1 := by
  cases b with
  | fixed f => exact ⟨rfl, fun a ha => read_encodeColor_congr hcol (h a ha)⟩
  | indexed x pf =>
    have hfind : palFind s.cfg pf m s.palBase.toNat (paletteCount s pf) x.bits col = _ :=
      palFind_of_sameBytes h.palette
    cases hk : palFind s.cfg pf m' s.palBase.toNat (paletteCount s pf) x.bits col with
    | none =>
      rw [storeColor_of_noSlot hk, storeColor_of_noSlot (hfind.trans hk)]
      exact ⟨rfl, h⟩
    | some k =>
      rw [storeColor_of_lowestSlot hk, storeColor_of_lowestSlot (hfind.trans hk)]
      exact ⟨rfl, fun a ha => read_fieldSet_congr x _ (h a ha)⟩

theorem filled_withMem (h : s.AgreeInWindows m s.mem) (n : Nat) :
    ((s.withMem m).filled b n).2 = (s.filled b n).2 ∧
    s.AgreeInWindows ((s.withMem m).filled b n).1 (s.filled b n).1 := by
  induction n with
  | zero => exact ⟨rfl, h⟩
  | succ n ih =>
    have hstore : (s.withMem m).fill b n = storeColor s b ((s.withMem m).filled b n).1 n (defaultColor b.ctype) := by
      cases b <;> rfl
    obtain ⟨hok, hmem⟩ := storeColor_congr (i := n) ih.2 (type_defaultColor b.ctype)
    rw [filled_succ, filled_succ, hstore, ih.1]
    exact ⟨congrArg ((s.filled b n).2 && ·) hok, hmem⟩

end

/-- Results of a command on two memories end it alike: the same fault, or the same registers and memories that agree. -/
def SameAnswer (s : State) (m : Memory) (r r' : Except EngineFault State) : Prop :=
  ∀ t, s.finish r = .next t →
    ∃ m', (s.withMem m).finish r' = .next (t.withMem m') ∧ s.AgreeInWindows m' t.mem

section
variable {m' : Memory} {r r' : Except EngineFault State}

theorem SameAnswer.ok (h : s.AgreeInWindows m' t.mem) : SameAnswer s m (.ok t) (.ok (t.withMem m')) := by
  intro u hu
  cases hu
  exact ⟨m', rfl, h⟩

/-- A part that both memories answer alike, then the rest. -/
theorem SameAnswer.bind {α : Type} (h : s.AgreeInWindows m s.mem) (x : Except EngineFault α)
    {k k' : α → Except EngineFault State} (hk : ∀ a, x = .ok a → SameAnswer s m (k a) (k' a)) :
    SameAnswer s m (x >>= k) (x >>= k') := by
  cases x with
  | ok a => exact hk a rfl
  | error e =>
    intro u hu
    cases hu
    exact ⟨m, rfl, h⟩

theorem SameAnswer.putMemory {w w' : Memory × Bool} (h : w'.2 = w.2 ∧ s.AgreeInWindows w'.1 w.1) :
    SameAnswer s m (.ok (s.putMemory w.1 (noMatchOf w.2))) (.ok ((s.withMem m).putMemory w'.1 (noMatchOf w'.2))) := by
  obtain ⟨hok, hmem⟩ := h
  rw [hok]
  exact .ok (t := s.putMemory _ _) hmem

/-- An element write in both memories, as `SET` and `PSET` end with. -/
theorem SameAnswer.setColor {b : BufferCodec} {col : Color} (h : s.AgreeInWindows m s.mem) (hcol : col.type = b.ctype)
    (i : Nat) :
    SameAnswer s m (setColor s b i col >>= fun r => .ok (s.putMemory r.1 (noMatchOf r.2)))
      (setColor (s.withMem m) b i col >>= fun r => .ok ((s.withMem m).putMemory r.1 (noMatchOf r.2))) := by
  obtain hi | hi := Nat.lt_or_ge i (bufferCount s b)
  · have hstore : storeColor (s.withMem m) b m i col = storeColor s b m i col := by cases b <;> rfl
    rw [setColor_of_lt hi, setColor_of_lt (s := s.withMem m) hi, State.withMem_mem, hstore]
    exact .putMemory (storeColor_congr h hcol)
  · rw [setColor_of_ge col hi, setColor_of_ge (s := s.withMem m) col hi]
    exact .bind h (.error (.indexOob i)) nofun

/-- Two memories that agree in the windows are answered alike by every command. -/
theorem exec_withMem {i : Instr} (hm : s.AgreeInWindows m s.mem) (h : exec i s = .next t) :
    ∃ m', exec i (s.withMem m) = .next (t.withMem m') ∧ s.AgreeInWindows m' t.mem := by
  cases i with
  | numc | capb | xlate | palnum | cvtRgbGs | cvtGsRgb | cvtGsRgba | cvtRgbaRgb | cvtRgbaGsa | cvtGsaRgba | cvtBwGs
    | cvtGsBw =>
    obtain ⟨-, -, -, hframe⟩ := commandFrame _ s t h
    refine ⟨m, exec_withMem_of_memoryless (by decide) h, ?_⟩
    rw [hframe (by decide)]
    exact hm
  | get =>
    refine SameAnswer.bind hm (openBuffer s) (fun b _ => ?_) t h
    rw [getColor_withMem hm]
    exact .bind hm (getColor s b _) fun col _ => .ok (t := s.putColorOut _) hm
  | pget =>
    refine SameAnswer.bind hm (openBuffer s) (fun b _ => .bind hm (checkPoint s) fun _ _ => ?_) t h
    rw [getColor_withMem hm]
    exact .bind hm (getColor s b _) fun col _ => .ok (t := s.putColorOut _) hm
  | palget =>
    refine SameAnswer.bind hm (checkFmtPal s) (fun pf _ => .bind hm (checkPal s) fun _ _ => ?_) t h
    rw [palGet_withMem hm]
    exact .bind hm (palGet s pf _) fun col _ => .ok (t := s.putColorOut _) hm
  | palfind =>
    refine SameAnswer.bind hm (checkFmtIndexed s) (fun x _ => .bind hm (checkFmtPal s) fun pf _ =>
      .bind hm (checkPal s) fun _ _ => ?_) t h
    have hfind : palFind (s.withMem m).cfg pf (s.withMem m).mem (s.withMem m).palBase.toNat
        (paletteCount (s.withMem m) pf) x.bits (colorOperand (s.withMem m) pf.ctype) =
        palFind s.cfg pf s.mem s.palBase.toNat (paletteCount s pf) x.bits (colorOperand s pf.ctype) :=
      palFind_of_sameBytes hm.palette
    rw [hfind]
    split <;> exact .ok (t := s.putResult _ _) hm
  | set =>
    exact SameAnswer.bind hm (openBuffer s) (fun b _ => .setColor hm (Color.type_fromWord _ _) _) t h
  | pset =>
    exact SameAnswer.bind hm (openBuffer s) (fun b _ => .bind hm (checkPoint s) fun _ _ =>
      .setColor hm (Color.type_fromWord _ _) _) t h
  | init =>
    exact SameAnswer.bind hm (openBuffer s) (fun b _ => .putMemory (filled_withMem hm (bufferCount s b))) t h

end

end

/-- Settles O55: the two memories agree in the windows before and after; twelve commands look at no memory at all. -/
theorem readsStayInWindows : Obligations.ReadsStayInWindows :=
  ⟨fun _ _ _ _ hm h => exec_withMem hm h, fun _ _ _ _ hi h => exec_withMem_of_memoryless hi h⟩

/-! ## The palette registers (60_exceptions R249) -/

/-- The state with other values in the palette registers. -/
def State.withPalette (base : Word) (len : BitVec 29) (fmt : BitVec 8) (s : State) : State :=
  { s with palBase := base, palLen := len, palFmt := fmt }

section
variable {s t : State} {f : FixedFormat} {base : Word} {len : BitVec 29} {fmt : BitVec 8}

/-- A fixed-depth buffer opens without the palette's checks; the rest of the command sees a fixed-depth codec. -/
theorem openBuffer_bind_withPalette {k k' : BufferCodec → Except EngineFault State}
    (hf : Format.ofCode s.bufFmt = some (.fixed f))
    (hk : k' (.fixed f) = State.withPalette base len fmt <$> k (.fixed f)) :
    (openBuffer (s.withPalette base len fmt) >>= k') = State.withPalette base len fmt <$> (openBuffer s >>= k) := by
  have hopen (u : State) (hu : Format.ofCode u.bufFmt = some (.fixed f)) :
      openBuffer u = checkBuf u >>= fun _ => .ok (.fixed f) := by
    simp only [openBuffer, checkFmtBuf_of_ofCode_some hu, except_bind_ok]
    rfl
  rw [hopen s hf, hopen (s.withPalette base len fmt) hf, bind_assoc, bind_assoc]
  exact except_bind_map (checkBuf s) fun _ => hk

/-- What follows the opening of a fixed-depth buffer does not depend on the palette registers. -/
theorem exec_withPalette {i : Instr} (hi : i ∈ [Instr.get, .set, .init, .pget, .pset])
    (hf : Format.ofCode s.bufFmt = some (.fixed f)) (h : exec i s = .next t) :
    exec i (s.withPalette base len fmt) = .next (t.withPalette base len fmt) := by
  have finish {k k' : BufferCodec → Except EngineFault State}
      (h : s.finish (openBuffer s >>= k) = .next t)
      (hk : k' (.fixed f) = State.withPalette base len fmt <$> k (.fixed f)) :
      (s.withPalette base len fmt).finish (openBuffer (s.withPalette base len fmt) >>= k') =
        .next (t.withPalette base len fmt) :=
    State.finish_map (g := State.withPalette base len fmt) (fun _ => rfl) (openBuffer_bind_withPalette hf hk) h
  cases i with
  | get =>
    refine finish h ?_
    exact except_bind_map (getColor s (.fixed f) s.arg0.toNat) fun _ => rfl
  | set =>
    refine finish h ?_
    exact except_bind_map (setColor s (.fixed f) s.arg0.toNat (colorOperand s f.ctype)) fun _ => rfl
  | pget =>
    refine finish h ?_
    exact except_bind_map (checkPoint s) fun _ =>
      except_bind_map (getColor s (.fixed f) (viewIndex s)) fun _ => rfl
  | pset =>
    refine finish h ?_
    exact except_bind_map (checkPoint s) fun _ =>
      except_bind_map (setColor s (.fixed f) (viewIndex s) (colorOperand s f.ctype)) fun _ => rfl
  | init =>
    refine finish h ?_
    rw [fillColors_congr (s := s) (s' := s.withPalette base len fmt) (b := .fixed f) fun _ _ => rfl]
    rfl
  | numc | capb | xlate | palnum | palget | palfind | cvtRgbGs | cvtGsRgb | cvtGsRgba | cvtRgbaRgb | cvtRgbaGsa
    | cvtGsaRgba | cvtBwGs | cvtGsBw => exact absurd hi (by decide)

end

/-- Settles O57, command by command. -/
theorem paletteUnreadWhenFixed : Obligations.PaletteUnreadWhenFixed := fun _ _ _ _ _ _ _ hi hf h =>
  exec_withPalette hi hf h

end Sys2Proof.Machine
end
